-- ==== Sys2Proof/Word.lean ====
section
/-! DEFINITION. The characters of the links and the numbers of the part's numbered things. -/

namespace Sys2Proof

/-- A character of a link: 8 data bits (R164). -/
abbrev Byte := BitVec 8

/-- A point, 0 to 95 (00_scope section 7). -/
abbrev PointId := Fin 96

/-- A field line, IN0 to IN23 (R30). -/
abbrev LineId := Fin 24

/-- A first-out group, 0 to 7 (R46). -/
abbrev GroupId := Fin 8

/-- A relay, RLY0 to RLY2 (R113). -/
abbrev RelayId := Fin 3

end Sys2Proof
end

