-- ==== Sys2Proof/Syntax.lean ====
section
/-! DEFINITION. The commands: one constructor per row of spec/opcode_table.json.

A request row executes the oldest frame waiting in the receive queue of one link (R171, R172); the frame's TAG, KIND,
body and CRC stand in that queue, so the link is the row's one operand (log 3).  An event row carries what the outside
presents with it: levels of lines, keys and straps, a character, or the number of the timer that expires. -/

namespace Sys2Proof

/-- Link A or Link B (chapter 10). -/
inductive LinkId
  | a
  | b
deriving DecidableEq, Repr

/-- The four panel keys, in the order of Read Panel (R103, R114). -/
inductive KeyId
  | ack
  | silence
  | reset
  | test
deriving DecidableEq, Repr

/-- The two sounder channels (R79). -/
inductive ChanId
  | ch0
  | ch1
deriving DecidableEq, Repr

/-- The level of a line, a key or a strap. -/
inductive Wire
  | low
  | high
deriving DecidableEq, Repr

/-- What the line delivers as one character: 8 data bits with a high stop bit, or a broken character (R164). -/
inductive RxChar
  | good (c : Byte)
  | broken
deriving DecidableEq, Repr

/-- The levels of the baud straps at the moment they are sampled (R164). -/
structure Straps where
  baud1 : Wire
  baud0 : Wire
deriving DecidableEq, Repr

/-- The commands, in the order of spec/opcode_table.json. -/
inductive Instr
  -- requests: the link whose oldest waiting frame is executed
  | hello (l : LinkId)
  | ping (l : LinkId)
  | readLinkStatus (l : LinkId)
  | readPoint (l : LinkId)
  | readSummary (l : LinkId)
  | readLines (l : LinkId)
  | readGroups (l : LinkId)
  | readShelf (l : LinkId)
  | readSounders (l : LinkId)
  | readPanel (l : LinkId)
  | raise (l : LinkId)
  | clear (l : LinkId)
  | acknowledgeAll (l : LinkId)
  | acknowledgePoint (l : LinkId)
  | silence (l : LinkId)
  | resetAll (l : LinkId)
  | resetPoint (l : LinkId)
  | shelvePoint (l : LinkId)
  | unshelvePoint (l : LinkId)
  | testBegin (l : LinkId)
  | testEnd (l : LinkId)
  | chirp (l : LinkId)
  | subscribe (l : LinkId)
  | grantCredits (l : LinkId)
  | unsubscribe (l : LinkId)
  | fetch (l : LinkId)
  | setClock (l : LinkId)
  | openSession (l : LinkId)
  | stagePoint (l : LinkId)
  | stageLine (l : LinkId)
  | stageTone (l : LinkId)
  | stageRelay (l : LinkId)
  | stageLink (l : LinkId)
  | stageGlobal (l : LinkId)
  | readStaged (l : LinkId)
  | readActive (l : LinkId)
  | discard (l : LinkId)
  | commit (l : LinkId)
  | closeSession (l : LinkId)
  | restartWarm (l : LinkId)
  | restartCold (l : LinkId)
  | unknownKind (l : LinkId)
  -- events
  /-- One scan; bit n of `levels` is 1 when INn is HIGH. -/
  | lineScan (levels : BitVec 24)
  | keySample (k : KeyId) (level : Wire)
  | keySteadyExpiry (k : KeyId)
  | reminderExpiry (point : Nat)
  | shelfExpiry
  | chatterWindowExpiry (point : Nat)
  | cadencePhaseExpiry (c : ChanId)
  | escalationStep (c : ChanId)
  | chirpTimerExpiry (c : ChanId)
  | messageTestExpiry (l : LinkId)
  | lampRefresh
  | commitCheckCompletion
  | receiveCharacter (l : LinkId) (c : RxChar)
  | intraFrameGapExpiry (l : LinkId)
  | supervisionExpiry (l : LinkId)
  /-- `straps` are sampled only when this completion brings the full reset of a Restart with COLD (R162, R164). -/
  | transmitComplete (l : LinkId) (straps : Straps)
  | fullReset (straps : Straps)
deriving DecidableEq, Repr

end Sys2Proof
end

