-- ==== Sys2Proof/Config.lean ====
section
/-! DEFINITION. The part's fixed figures (00_scope section 8) and the free values: what the spec leaves open and
nothing in the model can evaluate. -/

namespace Sys2Proof.Config

/-- Entries of the shelf table (R62). -/
def shelfSize : Nat := 16

/-- Records of the journal ring (R121). -/
def ringSize : Nat := 1024

/-- The last sequence number before 1 (R120). -/
def maxSeq : Nat := 4294967295

/-- Numbers more than this many steps ahead of a named one are taken to lie behind it (R120). -/
def halfCircle : Nat := 2147483647

/-- The part clock and the elapsed count have this many values (R126, R127). -/
def clockModulus : Nat := 281474976710656

/-- Frames a receive queue holds (R170). -/
def receivePlaces : Nat := 4

/-- Places of a reply queue (R171). -/
def replyPlaces : Nat := 8

/-- Credits a stream holds at most (R135). -/
def maxCredits : Nat := 64

/-- The identity of Hello (R181): IPSURA, 9640, revision 2, protocol 1. -/
def identity : List Byte := [0x49, 0x50, 0x53, 0x55, 0x52, 0x41, 0x25, 0xA8, 0x02, 0x01]

/-- Free value (log 5): how long the n-th commit check takes.  The model uses `1 + commitCheckTime n % 30`, since R154
gives 1 ms to 30 ms, "a time that may differ from one commit to the next". -/
opaque commitCheckTime : Nat → Nat

/-- Free value (log 6): of two line changes qualified at one scan the one of lower rank is taken first; R33 says
"either may be taken first". -/
opaque lineRank : Nat → LineId → Nat

/-- Free value (log 7): with the queue empty and several things due, which of them is taken. -/
opaque dueChoice : Nat → Nat

/-- Free value (log 8): whether Acknowledge All, reaching a point that an acknowledgement earlier in the same sweep has
just released into ALERTING, acknowledges it too.  R20 and R105 do not say. -/
opaque ackTakesReleased : Bool

end Sys2Proof.Config
end

