-- ==== Sys2Proof/Machine/State.lean ====
section
/-! DEFINITION. The state of the part as plain data, block by block (00_scope section 3), and its value after full
reset. -/

namespace Sys2Proof.Machine

/-! ## Values of the configuration (R1, R30, R78, R113, R145) -/

/-- The sequence a point follows (R1). -/
inductive Sequence
  | hold
  | follow
  | notice
deriving DecidableEq, Repr

/-- A point's priority, 0 to 3 (R1). -/
inductive Priority
  | mute
  | low
  | high
  | urgent
deriving DecidableEq, Repr

/-- The levels a sounder plays, 1 to 3 (R78). -/
inductive Level
  | low
  | high
  | urgent
deriving DecidableEq, Repr

/-- Where a point's condition comes from (R1, R36): LINE n, MSG_A or MSG_B, MSG_ANY, SILENT_A or SILENT_B. -/
inductive Source
  | line (n : LineId)
  | msg (l : LinkId)
  | msgAny
  | silent (l : LinkId)
deriving DecidableEq, Repr

/-- The relay set of a point (R1). -/
structure RelaySet where
  rly0 : Bool := false
  rly1 : Bool := false
  rly2 : Bool := false
deriving DecidableEq, Repr

/-- A point configuration record with the defaults of R1. -/
structure PointConfig where
  enabled : Bool := false
  sequence : Sequence := .hold
  priority : Priority := .low
  source : Source := .msgAny
  group : Option GroupId := none
  suppressor : Option PointId := none
  chatterLimit : Nat := 0
  chatterShelveMinutes : Nat := 10
  reminderMinutes : Nat := 0
  relays : RelaySet := {}
deriving DecidableEq, Repr

/-- The line level that means abnormal (R30). -/
inductive Polarity
  | activeLow
  | activeHigh
deriving DecidableEq, Repr

/-- A line configuration record with the defaults of R30. -/
structure LineConfig where
  polarity : Polarity := .activeLow
  onCount : Nat := 20
  offCount : Nat := 20
deriving DecidableEq, Repr

/-- A LEVEL profile (R78): pitches in Hz, times in ms, the step interval in seconds. -/
structure LevelTone where
  pitchA : Nat
  pitchB : Nat
  onTime : Nat
  offTime : Nat
  startLoudness : Nat
  endLoudness : Nat
  stepInterval : Nat
deriving DecidableEq, Repr

/-- The CHIRP profile (R78). -/
structure ChirpTone where
  pitch : Nat
  duration : Nat
  loudness : Nat
deriving DecidableEq, Repr

/-- The TEST profile (R78). -/
structure TestTone where
  pitchA : Nat
  pitchB : Nat
  onTime : Nat
  offTime : Nat
  loudness : Nat
deriving DecidableEq, Repr

/-- The five tone profiles with the defaults of R78. -/
structure ToneSet where
  level1 : LevelTone := ⟨800, 0, 500, 1500, 6, 6, 0⟩
  level2 : LevelTone := ⟨1200, 0, 250, 250, 8, 12, 10⟩
  level3 : LevelTone := ⟨2400, 1800, 200, 0, 10, 15, 5⟩
  chirp : ChirpTone := ⟨2000, 60, 8⟩
  test : TestTone := ⟨1000, 1500, 500, 500, 10⟩
deriving DecidableEq, Repr

/-- What a relay follows (R113). -/
inductive RelayMode
  | off
  | unacked
  | active
  | sounding
deriving DecidableEq, Repr

/-- What a link may ask (R173). -/
inductive Authority
  | observe
  | operate
  | configure
deriving DecidableEq, Repr

/-- A link record with the defaults of R145; the heartbeat interval is in seconds. -/
structure LinkConfig where
  authority : Authority := .configure
  heartbeat : Nat := 0
deriving DecidableEq, Repr

/-- The global record with the defaults of R145; the chatter window is in seconds. -/
structure GlobalConfig where
  chatterWindow : Nat := 60
  dual : Bool := false
  lockAck : Bool := false
  lockSilence : Bool := false
  lockReset : Bool := false
  lockTest : Bool := false
  keyChirp : Bool := false
deriving DecidableEq, Repr

/-- The 131 records of a configuration (R145), each at its default. -/
structure Configuration where
  points : Vector PointConfig 96 := Vector.replicate 96 {}
  lines : Vector LineConfig 24 := Vector.replicate 24 {}
  tones : ToneSet := {}
  relays : Vector RelayMode 3 := Vector.replicate 3 .off
  linkA : LinkConfig := {}
  linkB : LinkConfig := {}
  global : GlobalConfig := {}
deriving DecidableEq, Repr

/-! ## Timers -/

/-- A timer (R127): stopped, or running with the elapsed count at which it expires. -/
abbrev Timer := Option Nat

/-! ## Journal (chapters 7 and 8) -/

/-- A point's state (R3), in the order of the value codes. -/
inductive PointState
  | disabled
  | idle
  | alerting
  | standing
  | returned
  | awaitReset
  | suppressed
  | shelved
deriving DecidableEq, Repr

/-- The 17 record kinds (R118). -/
inductive RecordKind
  | point
  | silence
  | shelfFull
  | key
  | testBegin
  | testEnd
  | sessionOpened
  | sessionClosed
  | sessionLost
  | commit
  | linkLive
  | linkSilent
  | epoch
  | clockSet
  | startCold
  | startWarm
  | gap
deriving DecidableEq, Repr

/-- Where an event came from (R117). -/
inductive Origin
  | line
  | link (l : LinkId)
  | panel
  | timer
  | part
deriving DecidableEq, Repr

/-- What a POINT record reports (R5, R117). -/
inductive Cause
  | qa
  | qn
  | ack
  | rst
  | remind
  | shelve
  | unshelve
  | expire
  | suppress
  | release
  | commit
  | restart
  | chatter
deriving DecidableEq, Repr

/-- What the part clock counts from (R126). -/
inductive Basis
  | elapsed
  | calendar
deriving DecidableEq, Repr

/-- What the appending block supplies of a record (R117); a field its kind does not use is `none`. -/
structure RecordBody where
  kind : RecordKind
  origin : Origin
  point : Option PointId := none
  states : Option (PointState × PointState) := none
  cause : Option Cause := none
  occurrence : Option Nat := none
  detail : Option Nat := none
deriving DecidableEq, Repr

/-- A journal record: what the Journal fills in, and what it was handed (R117, R119). -/
structure Record where
  seq : Nat
  time : Nat
  basis : Basis
  body : RecordBody
deriving DecidableEq, Repr

/-- Records lost beneath a cursor and not yet reported (R132). -/
structure Gap where
  first : Nat
  count : Nat
deriving DecidableEq, Repr

/-- A stream record (R132) at its reset values (R144). -/
structure Stream where
  subscribed : Bool := false
  cursor : Nat := 1
  credits : Nat := 0
  gap : Option Gap := none
deriving DecidableEq, Repr

/-- The Journal block: ring (oldest first), next sequence number, part clock and basis, elapsed count, streams
(R120, R121, R126, R127, R132). -/
structure Journal where
  ring : List Record
  nextSeq : Nat
  clock : Nat
  basis : Basis
  elapsed : Nat
  streamA : Stream
  streamB : Stream
deriving DecidableEq, Repr

/-! ## Sequence Engine and Shelf Unit (chapters 1, 3 and 4) -/

/-- A point's dynamic record (R2) at its reset values (R29). -/
structure Point where
  state : PointState := .disabled
  abnormal : Bool := false
  occurrence : Nat := 0
  mark : Bool := false
  hushed : Bool := false
  entryStamp : Nat := 0
  reminder : Timer := none
deriving DecidableEq, Repr

/-- A group record (R46) at its reset values. -/
structure Group where
  armed : Bool := true
  first : Option PointId := none
  members : Nat := 0
deriving DecidableEq, Repr

/-- What made or last replaced a shelf entry (R62). -/
inductive ShelfOrigin
  | link (l : LinkId)
  | chatter
deriving DecidableEq, Repr

/-- A shelf entry (R62); `expiry` is a value of the elapsed count. -/
structure ShelfEntry where
  point : PointId
  origin : ShelfOrigin
  minutes : Nat
  expiry : Nat
deriving DecidableEq, Repr

/-- A chatter record (R70). -/
structure Chatter where
  count : Nat := 0
  window : Timer := none
deriving DecidableEq, Repr

/-! ## Sounder Controller (chapter 5) -/

/-- What a channel is playing (R82). -/
inductive ChannelMode
  | idle
  | level (l : Level)
  | chirp
  | test
deriving DecidableEq, Repr

/-- A playing copy of one profile (R82). -/
inductive PlayingCopy
  | level (t : LevelTone)
  | chirp (t : ChirpTone)
  | test (t : TestTone)
deriving DecidableEq, Repr

/-- Which of the copy's pitches the present or last on phase sounds at (R80, R82). -/
inductive PitchSel
  | a
  | b
deriving DecidableEq, Repr

/-- A channel record (R82), and its square wave (R79): the elapsed count at which the first period of the present or last
sound began, and a loudness that is still heard until the period running at a given count ends.  The reset values of copy,
pitch, loudness, phase and wave are the model's (log 13). -/
structure Channel where
  mode : ChannelMode := .idle
  copy : PlayingCopy := .level ⟨800, 0, 500, 1500, 6, 6, 0⟩
  pitch : PitchSel := .a
  loudness : Nat := 0
  phaseOn : Bool := false
  cadence : Timer := none
  escalation : Timer := none
  chirpTimer : Timer := none
  waveStart : Nat := 0
  held : Option (Nat × Nat) := none
deriving DecidableEq, Repr

/-- A claim with the entry stamp passed with it (R83). -/
structure Claim where
  point : PointId
  stamp : Nat
deriving DecidableEq, Repr

/-- A set of levels: W, or the levels whose profile changed at an apply (R83, R100). -/
structure LevelSet where
  low : Bool := false
  high : Bool := false
  urgent : Bool := false
deriving DecidableEq, Repr

/-- The Sounder Controller at its reset values (R102). -/
structure Sounder where
  ch0 : Channel := {}
  ch1 : Channel := {}
  tones : ToneSet := {}
  dual : Bool := false
  claims1 : List Claim := []
  claims2 : List Claim := []
  claims3 : List Claim := []
  dropped : Nat := 0
deriving DecidableEq, Repr

/-! ## Panel Unit (chapter 6) -/

/-- A lamp pattern (R110). -/
inductive Pattern
  | off
  | steady
  | fast
  | slow
  | double
deriving DecidableEq, Repr

/-- A key qualifier (R103) at its reset values. -/
structure KeyQualifier where
  raw : Wire := .high
  pressed : Bool := false
  steady : Timer := none
deriving DecidableEq, Repr

/-- A key line: its level as last presented from outside (log 21), and the timer of its next sample (R103), the first of
which is due at elapsed count 1 (log 15). -/
structure KeyLine where
  level : Wire := .high
  sample : Timer := some 1
deriving DecidableEq, Repr

/-- The four key lines (R103). -/
structure KeyLines where
  ack : KeyLine := {}
  silence : KeyLine := {}
  reset : KeyLine := {}
  test : KeyLine := {}
deriving DecidableEq, Repr

/-- The test set (R107). -/
structure TestSet where
  key : Bool := false
  linkA : Bool := false
  linkB : Bool := false
deriving DecidableEq, Repr

/-- The blocks whose state a point's transition can reach: Sequence Engine, Shelf Unit, lamp image, Sounder Controller
and Journal.  They are kept together so that an operation on alarms is a function of this record and can touch nothing
else of the part. -/
structure Alarm where
  points : Vector Point 96 := Vector.replicate 96 {}
  groups : Vector Group 8 := Vector.replicate 8 {}
  shelf : List ShelfEntry := []
  chatter : Vector Chatter 96 := Vector.replicate 96 {}
  lamps : Vector Pattern 96 := Vector.replicate 96 .off
  sounder : Sounder := {}
  journal : Journal
deriving DecidableEq, Repr

/-- The Panel Unit but for its lamp image (R103, R107, R111, R112, R113) at its reset values (R116).  The refresh
timer starts at the reset, so the first refresh is due at elapsed count 10 (log 15); `drivers` is what the last refresh latched into the lamp chain. -/
structure Panel where
  keyAck : KeyQualifier := {}
  keySilence : KeyQualifier := {}
  keyReset : KeyQualifier := {}
  keyTest : KeyQualifier := {}
  testSet : TestSet := {}
  testTimerA : Timer := none
  testTimerB : Timer := none
  flash : Nat := 0
  refresh : Timer := some 10
  drivers : Vector Bool 96 := Vector.replicate 96 false
  relays : Vector Bool 3 := Vector.replicate 3 false
deriving DecidableEq, Repr

/-! ## Input Qualifier and Condition Resolver (chapter 2) -/

/-- A line record (R31) at its reset values (R35; the raw sample's is the model's, log 12). -/
structure Line where
  raw : Wire := .low
  abnormal : Bool := false
  run : Nat := 0
  config : LineConfig := {}
deriving DecidableEq, Repr

/-- A point's record in the Condition Resolver (R36) at its reset values (R45). -/
structure Condition where
  abnormal : Bool := false
  byA : Bool := false
  byB : Bool := false
deriving DecidableEq, Repr

/-! ## Configuration Manager (chapter 9) -/

/-- The part mode (R146). -/
inductive PartMode
  | unconfigured
  | running
deriving DecidableEq, Repr

/-- The session lock, the part mode and the commit check (R146, R147), and the link whose Restart COLD reply brings the
full reset (R162). -/
structure Manager where
  mode : PartMode := .unconfigured
  holder : Option LinkId := none
  sessionId : Nat := 0
  idCounter : Nat := 0
  staging : Option Configuration := none
  check : Timer := none
  drain : Option LinkId := none
deriving DecidableEq, Repr

/-! ## Link Controllers (chapter 10) -/

/-- The receive framer (R165); the characters taken so far are in the order they came. -/
inductive Framer
  | hunt
  | length
  | collect (len : Nat) (taken : List Byte)
  | check (taken : List Byte) (crcHigh : Option Byte)
deriving DecidableEq, Repr

/-- An accepted frame (R165, R170). -/
structure Frame where
  tag : Byte
  kind : Byte
  body : List Byte
  crc : BitVec 16
deriving DecidableEq, Repr

/-- The status codes (11_message_catalogue 11.3), in the order of their codes. -/
inductive Status
  | ok
  | busy
  | unknownKind
  | length
  | version
  | denied
  | range
  | wrongSource
  | notEnabled
  | nothingPending
  | stale
  | shelfFull
  | noSession
  | sessionHeld
  | checkFailed
  | abandoned
  | notSubscribed
deriving DecidableEq, Repr

/-- The reply flags (R174). -/
structure Flags where
  repeated : Bool := false
  extended : Bool := false
  dropped : Bool := false
deriving DecidableEq, Repr

/-- What an execution answers: status, flags and reply data (R174).  `resets` marks the Restart COLD reply whose last
character brings the full reset (R162). -/
structure Answer where
  status : Status
  flags : Flags := {}
  data : List Byte := []
  resets : Bool := false
deriving DecidableEq, Repr

/-- A reply in a reply queue: the request's TAG and KIND, and the answer (R174). -/
structure Reply where
  tag : Byte
  kind : Byte
  answer : Answer
deriving DecidableEq, Repr

/-- An entry of the last-reply cache (R175). -/
structure CacheEntry where
  tag : Byte
  kind : Byte
  crc : BitVec 16
  reply : Reply
deriving DecidableEq, Repr

/-- The frame in transmission (R176): its characters, whether it is the oldest reply (which keeps its place until its
last character has left, log 10), and whether its end brings the full reset (R162). -/
structure Sending where
  chars : List Byte
  isReply : Bool
  resets : Bool
deriving DecidableEq, Repr

/-- The link state (R177). -/
inductive LinkState
  | down
  | live
  | silent
deriving DecidableEq, Repr

/-- A Link Controller at its reset values (R185). -/
structure Link where
  framer : Framer := .hunt
  gapTimer : Timer := none
  waiting : List Frame := []
  executing : Option Frame := none
  held : Bool := false
  replies : List Reply := []
  sending : Option Sending := none
  state : LinkState := .down
  supervision : Timer := none
  epoch : Nat := 0
  cache : Option CacheEntry := none
  framingErrors : Nat := 0
  crcErrors : Nat := 0
  busyRefusals : Nat := 0
  authority : Authority := .configure
  heartbeat : Nat := 0
deriving DecidableEq, Repr

/-- The baud rates (R164). -/
inductive Baud
  | b19200
  | b57600
  | b115200
  | b230400
deriving DecidableEq, Repr

/-! ## The machine -/

/-- Everything the spec gives the part.  `scanTimer` is the line scan period (R31, R127), `inputs` the levels on IN0 to
IN23 as last presented from outside, bit n for INn, 1 for HIGH (log 21), `keyLines` the four key lines.  `free` is the model's own counter for its free
values (log 25). -/
structure Part where
  active : Configuration := {}
  manager : Manager := {}
  inputs : BitVec 24 := 0xFFFFFF#24
  scanTimer : Timer := some 1
  keyLines : KeyLines := {}
  lines : Vector Line 24 := Vector.replicate 24 {}
  conditions : Vector Condition 96 := Vector.replicate 96 {}
  alarm : Alarm
  panel : Panel := {}
  linkA : Link := {}
  linkB : Link := {}
  baud : Baud := .b19200
  free : Nat := 0
deriving DecidableEq, Repr

/-- The part, and the commands waiting to be taken, first in, first out. -/
structure State extends Part where
  pending : List Instr := []
deriving DecidableEq, Repr

/-! ## Types the operations speak in -/

/-- What an operation on alarms reads from outside them: the active configuration, whether test is active, whether the
channel assignment waits for the operation's end (commit apply, warm restart: R100, R101), and the origin its records
carry (R5). -/
structure Env where
  config : Configuration
  test : Bool
  defer : Bool
  origin : Origin
deriving DecidableEq, Repr

/-- Where a chirp request was placed (R89). -/
inductive ChirpOutcome
  | started (c : ChanId)
  | extended (c : ChanId)
  | dropped
deriving DecidableEq, Repr

/-- Where a sequence number lies against the ring (R120); `lost` carries the number of records lost, `held` the number of
records from it to the newest. -/
inductive SeqPlace
  | next
  | held (a : Nat)
  | lost (n : Nat)
  | newer
deriving DecidableEq, Repr

/-- The request kinds (11_message_catalogue 11.4); Restart is one kind with two rows of the table. -/
inductive RequestKind
  | hello
  | ping
  | readLinkStatus
  | readPoint
  | readSummary
  | readLines
  | readGroups
  | readShelf
  | readSounders
  | readPanel
  | raise
  | clear
  | acknowledgeAll
  | acknowledgePoint
  | silence
  | resetAll
  | resetPoint
  | shelvePoint
  | unshelvePoint
  | testBegin
  | testEnd
  | chirp
  | subscribe
  | grantCredits
  | unsubscribe
  | fetch
  | setClock
  | openSession
  | stagePoint
  | stageLine
  | stageTone
  | stageRelay
  | stageLink
  | stageGlobal
  | readStaged
  | readActive
  | discard
  | commit
  | closeSession
  | restart
deriving DecidableEq, Repr

/-- The five profiles by name (11_message_catalogue 11.6). -/
inductive ProfileId
  | level (l : Level)
  | chirp
  | test
deriving DecidableEq, Repr

/-- Which record of a configuration a Read Staged or Read Active names (R150, 11_message_catalogue 11.6). -/
inductive RecordName
  | point (p : PointId)
  | line (n : LineId)
  | tone (t : ProfileId)
  | relay (r : RelayId)
  | link (l : LinkId)
  | global
deriving DecidableEq, Repr

/-- The outcome of a commit check (R155): passed, or the code and the failing item as the CHECK_FAILED body gives
them. -/
inductive CheckResult
  | passed
  | failed (code item : Nat)
deriving DecidableEq, Repr

/-- Why the machine stops with a fault. -/
inductive Fault
  /-- Raised by REMINDER_EXPIRY and CHATTER_WINDOW_EXPIRY with a point number above 95: the part has no such timer
  (R2, R70).  Safe: no such command can come to the part. -/
  | noSuchPoint
deriving DecidableEq, Repr

/-- Why the machine has no meaning for a command. -/
inductive Refusal
  /-- Raised by an arm of `exec` that has no meaning yet; no arm of this model does.  Safe: the run stops. -/
  | notModelled (mnemonic : String)
deriving DecidableEq, Repr

/-- The START_COLD record, record 1 of the new history, stamped 0 ELAPSED (R118, R130). -/
def startColdRecord : Record := ⟨1, 0, .elapsed, { kind := .startCold, origin := .part }⟩

/-- The Journal right after a full reset (R130, R144). -/
def Journal.reset : Journal where
  ring := [startColdRecord]
  nextSeq := 2
  clock := 0
  basis := .elapsed
  elapsed := 0
  streamA := {}
  streamB := {}

/-- Every block at its full reset values (R29, R35, R45, R61, R77, R102, R116, R130, R144, R163, R185); both straps low
(log 11), every field line HIGH (log 21). -/
def Part.reset : Part := { alarm := { journal := Journal.reset } }

/-- The machine right after full reset, with no command waiting. -/
def State.reset : State := { toPart := Part.reset }

end Sys2Proof.Machine
end

