-- ==== Sys2Proof/Machine/Ops.lean ====
section
/-! DEFINITION. Time, numbered tables, access to the state's like things, and the Journal's operations (chapters 7, 8). -/

namespace Sys2Proof.Machine

/-! ## Numbered tables -/

/-- The table whose entry i is `f i`. -/
def tabulate {n : Nat} {α : Type} (f : Fin n → α) : Vector α n :=
  ⟨((List.finRange n).map f).toArray, by simp⟩

/-- The points in ascending order. -/
def allPoints : List PointId := List.finRange 96

/-- The lines in ascending order. -/
def allLines : List LineId := List.finRange 24

/-- The groups in ascending order. -/
def allGroups : List GroupId := List.finRange 8

/-- The relays, RLY0 first. -/
def allRelays : List RelayId := List.finRange 3

/-- The point with this number, where there is one. -/
def point? (n : Nat) : Option PointId := if h : n < 96 then some ⟨n, h⟩ else none

/-- The line with this number, where there is one. -/
def line? (n : Nat) : Option LineId := if h : n < 24 then some ⟨n, h⟩ else none

/-- The group with this number, where there is one. -/
def group? (n : Nat) : Option GroupId := if h : n < 8 then some ⟨n, h⟩ else none

/-- The relay with this number, where there is one. -/
def relay? (n : Nat) : Option RelayId := if h : n < 3 then some ⟨n, h⟩ else none

/-- The link with this code (0 A, 1 B). -/
def link? : Nat → Option LinkId
  | 0 => some .a
  | 1 => some .b
  | _ => none

/-- The other link. -/
def otherLink : LinkId → LinkId
  | .a => .b
  | .b => .a

/-! ## The elapsed count and its timers (R126, R127) -/

/-- The elapsed count or part clock `d` milliseconds after `now` (both are 48 bits wide and run round, log 14). -/
def clockAfter (now d : Nat) : Nat := (now + d) % Config.clockModulus

/-- Milliseconds from `now` to a deadline: 0 once the count has reached it.  A deadline more than half the count's range
ahead lies behind (log 14). -/
def timeLeft (now deadline : Nat) : Nat :=
  let r := (deadline + Config.clockModulus - now % Config.clockModulus) % Config.clockModulus
  if r < Config.clockModulus / 2 then r else 0

/-- A timer is running and the count has reached its deadline. -/
def Timer.due (now : Nat) : Timer → Bool
  | none => false
  | some d => timeLeft now d = 0

/-- The count has gone past a deadline. -/
def pastDeadline (now deadline : Nat) : Bool := timeLeft now deadline = 0 && deadline ≠ now

/-- Milliseconds remaining: 0 while stopped (R186). -/
def Timer.remaining (now : Nat) : Timer → Nat
  | none => 0
  | some d => timeLeft now d

/-- A time in whole seconds, rounded up (R16, R63, R114, R184). -/
def secondsUp (ms : Nat) : Nat := (ms + 999) / 1000

/-! ## Like things held in one place each -/

/-- Link X's Link Controller. -/
def Part.link (s : Part) : LinkId → Link
  | .a => s.linkA
  | .b => s.linkB

/-- `s` with Link X's Link Controller replaced. -/
def Part.setLink (s : Part) (l : LinkId) (v : Link) : Part :=
  match l with
  | .a => { s with linkA := v }
  | .b => { s with linkB := v }

/-- Link X's stream record. -/
def Journal.stream (j : Journal) : LinkId → Stream
  | .a => j.streamA
  | .b => j.streamB

/-- `j` with Link X's stream record replaced. -/
def Journal.setStream (j : Journal) (l : LinkId) (v : Stream) : Journal :=
  match l with
  | .a => { j with streamA := v }
  | .b => { j with streamB := v }

/-- Link X's link record. -/
def Configuration.link (c : Configuration) : LinkId → LinkConfig
  | .a => c.linkA
  | .b => c.linkB

/-- `c` with Link X's link record replaced. -/
def Configuration.setLink (c : Configuration) (l : LinkId) (v : LinkConfig) : Configuration :=
  match l with
  | .a => { c with linkA := v }
  | .b => { c with linkB := v }

/-- The LEVEL profile of a level. -/
def ToneSet.level (t : ToneSet) : Level → LevelTone
  | .low => t.level1
  | .high => t.level2
  | .urgent => t.level3

/-- `t` with a LEVEL profile replaced. -/
def ToneSet.setLevel (t : ToneSet) (l : Level) (v : LevelTone) : ToneSet :=
  match l with
  | .low => { t with level1 := v }
  | .high => { t with level2 := v }
  | .urgent => { t with level3 := v }

/-- A channel's record. -/
def Sounder.channel (s : Sounder) : ChanId → Channel
  | .ch0 => s.ch0
  | .ch1 => s.ch1

/-- `s` with a channel's record replaced. -/
def Sounder.setChannel (s : Sounder) (c : ChanId) (v : Channel) : Sounder :=
  match c with
  | .ch0 => { s with ch0 := v }
  | .ch1 => { s with ch1 := v }

/-- The claim list of a level. -/
def Sounder.claims (s : Sounder) : Level → List Claim
  | .low => s.claims1
  | .high => s.claims2
  | .urgent => s.claims3

/-- A key's qualifier. -/
def Panel.key (p : Panel) : KeyId → KeyQualifier
  | .ack => p.keyAck
  | .silence => p.keySilence
  | .reset => p.keyReset
  | .test => p.keyTest

/-- `p` with a key's qualifier replaced. -/
def Panel.setKey (p : Panel) (k : KeyId) (v : KeyQualifier) : Panel :=
  match k with
  | .ack => { p with keyAck := v }
  | .silence => { p with keySilence := v }
  | .reset => { p with keyReset := v }
  | .test => { p with keyTest := v }

/-- A key's line. -/
def KeyLines.line (x : KeyLines) : KeyId → KeyLine
  | .ack => x.ack
  | .silence => x.silence
  | .reset => x.reset
  | .test => x.test

/-- `x` with a key's line replaced. -/
def KeyLines.setLine (x : KeyLines) (k : KeyId) (v : KeyLine) : KeyLines :=
  match k with
  | .ack => { x with ack := v }
  | .silence => { x with silence := v }
  | .reset => { x with reset := v }
  | .test => { x with test := v }

/-- The key lines after a full reset: the levels are the outside's and stay, the sample timers start again (R103, log 15,
log 21). -/
def KeyLines.restarted (x : KeyLines) : KeyLines :=
  ⟨{ level := x.ack.level }, { level := x.silence.level }, { level := x.reset.level }, { level := x.test.level }⟩

/-- A key's line. -/
def Part.keyLine (s : Part) (k : KeyId) : KeyLine := s.keyLines.line k

/-- The part with a key's line replaced. -/
def Part.setKeyLine (s : Part) (k : KeyId) (v : KeyLine) : Part := { s with keyLines := s.keyLines.setLine k v }

/-- A link's message test timer. -/
def Panel.testTimer (p : Panel) : LinkId → Timer
  | .a => p.testTimerA
  | .b => p.testTimerB

/-- `p` with a link's message test timer replaced. -/
def Panel.setTestTimer (p : Panel) (l : LinkId) (v : Timer) : Panel :=
  match l with
  | .a => { p with testTimerA := v }
  | .b => { p with testTimerB := v }

/-- LINK_X is in the test set. -/
def TestSet.hasLink (t : TestSet) : LinkId → Bool
  | .a => t.linkA
  | .b => t.linkB

/-- LINK_X put in or taken out of the test set. -/
def TestSet.setLink (t : TestSet) (l : LinkId) (v : Bool) : TestSet :=
  match l with
  | .a => { t with linkA := v }
  | .b => { t with linkB := v }

/-- Test is active exactly while the test set is non-empty (R107). -/
def TestSet.active (t : TestSet) : Bool := t.key || t.linkA || t.linkB

/-- Link X's assertion on a point. -/
def Condition.by (c : Condition) : LinkId → Bool
  | .a => c.byA
  | .b => c.byB

/-- `c` with Link X's assertion set or cleared. -/
def Condition.setBy (c : Condition) (l : LinkId) (v : Bool) : Condition :=
  match l with
  | .a => { c with byA := v }
  | .b => { c with byB := v }

/-- A relay is in a point's relay set. -/
def RelaySet.has (r : RelaySet) (n : RelayId) : Bool :=
  match n.val with
  | 0 => r.rly0
  | 1 => r.rly1
  | _ => r.rly2

/-- A global record's lockout of a key (R104). -/
def GlobalConfig.lock (g : GlobalConfig) : KeyId → Bool
  | .ack => g.lockAck
  | .silence => g.lockSilence
  | .reset => g.lockReset
  | .test => g.lockTest

/-! ## Sequence numbers (R120) -/

/-- The number after `n`: 1 after 4 294 967 295. -/
def seqAfter (n : Nat) : Nat := if n = Config.maxSeq then 1 else n + 1

/-- The number before `n`: 4 294 967 295 before 1. -/
def seqBefore (n : Nat) : Nat := if n = 1 then Config.maxSeq else n - 1

/-- The steps from `s` forward to `next` along the numbering 1, 2, …, 4 294 967 295, 1, 2, …. -/
def seqSteps (s next : Nat) : Nat := (next + Config.maxSeq - s % Config.maxSeq) % Config.maxSeq

/-- Where sequence number `s` lies against the ring (the table of R120). -/
def Journal.place (j : Journal) (s : Nat) : SeqPlace :=
  let a := seqSteps s j.nextSeq
  if a = 0 then .next
  else if a ≤ j.ring.length then .held a
  else if a ≤ Config.halfCircle then .lost (a - j.ring.length)
  else .newer

/-- The sequence number of the newest record (R121). -/
def Journal.newest (j : Journal) : Nat := seqBefore j.nextSeq

/-- The sequence number of the oldest record (R133); the next number while the ring is empty, which it never is once a
full reset has completed. -/
def Journal.oldest (j : Journal) : Nat :=
  match j.ring with
  | [] => j.nextSeq
  | r :: _ => r.seq

/-- A count that stops at 65 535 (R93, R124, R139, R169). -/
def cap16 (n : Nat) : Nat := if n < 65535 then n else 65535

/-! ## Appending (R119, R121, R139) -/

/-- What a stream does when the ring drops record `d` (R139). -/
def Stream.overwritten (d : Nat) (t : Stream) : Stream :=
  if t.subscribed && t.cursor = d then
    { t with
      cursor := seqAfter d
      gap := some (match t.gap with
        | none => ⟨d, 1⟩
        | some g => ⟨g.first, cap16 (g.count + 1)⟩) }
  else t

/-- The Journal makes room: a full ring drops its oldest record and tells both streams its number (R121). -/
def Journal.makeRoom (j : Journal) : Journal :=
  match j.ring with
  | [] => j
  | oldest :: rest =>
    if Config.ringSize ≤ j.ring.length then
      { j with
        ring := rest
        streamA := j.streamA.overwritten oldest.seq
        streamB := j.streamB.overwritten oldest.seq }
    else j

/-- The Journal takes a record: numbers it, stamps it and stores it as the newest (R119, R120, R121). -/
def Journal.append (b : RecordBody) (j : Journal) : Journal :=
  let j' := j.makeRoom
  { j' with ring := j'.ring ++ [⟨j.nextSeq, j.clock, j.basis, b⟩], nextSeq := seqAfter j.nextSeq }

/-- A GAP record for `n` records lost from `first` on (R124). -/
def Journal.gapRecord (j : Journal) (first n : Nat) : Record :=
  ⟨first, j.clock, j.basis, { kind := .gap, origin := .part, detail := some (cap16 n) }⟩

/-- The held records from the `a`-th newest on, at most `count` (R122). -/
def Journal.run (j : Journal) (a count : Nat) : List Record := (j.ring.drop (j.ring.length - a)).take count

/-- The entries a Fetch from `first`, lying at a place against the ring, gives (the table of R122, R123). -/
def Journal.entriesAt (j : Journal) (first count : Nat) : SeqPlace → List Record
  | .held a => j.run a count
  | .lost n => (j.gapRecord first n :: j.ring).take count
  | .next => []
  | .newer => []

/-- The entries of a Fetch reply (R122, R123). -/
def Journal.fetch (j : Journal) (first count : Nat) : List Record := j.entriesAt first count (j.place first)

/-! ## Streams (R132 to R142) -/

/-- The Journal block with time gone on by a millisecond (R126, R127). -/
def Journal.tick (j : Journal) : Journal :=
  { j with clock := clockAfter j.clock 1, elapsed := clockAfter j.elapsed 1 }

/-- A stream offers a report: it is subscribed, has a credit, and has a gap or a record to send (R137). -/
def Journal.offers (j : Journal) (l : LinkId) : Bool :=
  let t := j.stream l
  t.subscribed && decide (1 ≤ t.credits) && (t.gap.isSome || t.cursor ≠ j.nextSeq)

/-- The record that lies at a place of the ring; `none` where no record does. -/
def Journal.recordAt (j : Journal) : SeqPlace → Option Record
  | .held a => (j.run a 1).head?
  | .lost _ => none
  | .next => none
  | .newer => none

/-- The record a stream's next report carries, and the stream after it is taken (R138).  `none` when the cursor names no
record of the ring, which R132's law rules out. -/
def Journal.report (j : Journal) (l : LinkId) : Option (Record × Stream) :=
  let t := j.stream l
  match t.gap with
  | some g => some (j.gapRecord g.first g.count, { t with gap := none, credits := t.credits - 1 })
  | none =>
    (j.recordAt (j.place t.cursor)).map fun r =>
      (r, { t with cursor := seqAfter t.cursor, credits := t.credits - 1 })

/-- Link X's stream ended: unsubscribed, cursor 1, no credits, no gap (R136, R142). -/
def Journal.endStream (l : LinkId) (j : Journal) : Journal := j.setStream l {}

/-- Link X's credits set to 0 by its silence (R141). -/
def Journal.zeroCredits (l : LinkId) (j : Journal) : Journal :=
  j.setStream l { j.stream l with credits := 0 }

end Sys2Proof.Machine
end

