-- ==== Sys2Proof/Machine/Flags.lean ====
section
/-! DEFINITION. The flag characters, bit sets and value codes of the message catalogue (11.1, 11.3, 11.6, 11.8). -/

namespace Sys2Proof.Machine

/-- The value of one bit of a character. -/
def bitVal (b : Bool) (n : Nat) : Nat := if b then 2 ^ n else 0

/-- Yes/no (11.6). -/
def yesNo (b : Bool) : Nat := if b then 1 else 0

/-- A status code (11.3). -/
def Status.code : Status → Nat
  | .ok => 0x00
  | .busy => 0x01
  | .unknownKind => 0x02
  | .length => 0x03
  | .version => 0x04
  | .denied => 0x05
  | .range => 0x06
  | .wrongSource => 0x07
  | .notEnabled => 0x08
  | .nothingPending => 0x09
  | .stale => 0x0A
  | .shelfFull => 0x0B
  | .noSession => 0x0C
  | .sessionHeld => 0x0D
  | .checkFailed => 0x0E
  | .abandoned => 0x0F
  | .notSubscribed => 0x10

/-- The flags character: bit 0 REPEAT, bit 1 EXTENDED, bit 2 DROPPED (11.1). -/
def Flags.code (f : Flags) : Nat := bitVal f.repeated 0 + bitVal f.extended 1 + bitVal f.dropped 2

/-- Point state codes. -/
def PointState.code : PointState → Nat
  | .disabled => 0
  | .idle => 1
  | .alerting => 2
  | .standing => 3
  | .returned => 4
  | .awaitReset => 5
  | .suppressed => 6
  | .shelved => 7

/-- Journal kind codes. -/
def RecordKind.code : RecordKind → Nat
  | .point => 0
  | .silence => 1
  | .shelfFull => 2
  | .key => 3
  | .testBegin => 4
  | .testEnd => 5
  | .sessionOpened => 6
  | .sessionClosed => 7
  | .sessionLost => 8
  | .commit => 9
  | .linkLive => 10
  | .linkSilent => 11
  | .epoch => 12
  | .clockSet => 13
  | .startCold => 14
  | .startWarm => 15
  | .gap => 16

/-- Link codes. -/
def linkCode : LinkId → Nat
  | .a => 0
  | .b => 1

/-- Origin codes. -/
def Origin.code : Origin → Nat
  | .line => 0
  | .link .a => 1
  | .link .b => 2
  | .panel => 3
  | .timer => 4
  | .part => 5

/-- Cause codes. -/
def Cause.code : Cause → Nat
  | .qa => 0
  | .qn => 1
  | .ack => 2
  | .rst => 3
  | .remind => 4
  | .shelve => 5
  | .unshelve => 6
  | .expire => 7
  | .suppress => 8
  | .release => 9
  | .commit => 10
  | .restart => 11
  | .chatter => 12

/-- Basis codes. -/
def Basis.code : Basis → Nat
  | .elapsed => 0
  | .calendar => 1

/-- Key codes. -/
def keyCode : KeyId → Nat
  | .ack => 0
  | .silence => 1
  | .reset => 2
  | .test => 3

/-- Sequence codes. -/
def Sequence.code : Sequence → Nat
  | .hold => 0
  | .follow => 1
  | .notice => 2

/-- Priorities as numbers. -/
def Priority.code : Priority → Nat
  | .mute => 0
  | .low => 1
  | .high => 2
  | .urgent => 3

/-- Levels as numbers. -/
def Level.code : Level → Nat
  | .low => 1
  | .high => 2
  | .urgent => 3

/-- Source codes. -/
def Source.code : Source → Nat
  | .line n => n.val
  | .msg .a => 24
  | .msg .b => 25
  | .msgAny => 26
  | .silent .a => 27
  | .silent .b => 28

/-- Polarity codes. -/
def Polarity.code : Polarity → Nat
  | .activeLow => 0
  | .activeHigh => 1

/-- Authority codes. -/
def Authority.code : Authority → Nat
  | .observe => 0
  | .operate => 1
  | .configure => 2

/-- Link state codes. -/
def LinkState.code : LinkState → Nat
  | .down => 0
  | .live => 1
  | .silent => 2

/-- Part mode codes. -/
def PartMode.code : PartMode → Nat
  | .unconfigured => 0
  | .running => 1

/-- Shelf origin codes. -/
def ShelfOrigin.code : ShelfOrigin → Nat
  | .link .a => 0
  | .link .b => 1
  | .chatter => 2

/-- Channel mode codes. -/
def ChannelMode.code : ChannelMode → Nat
  | .idle => 0
  | .level _ => 1
  | .chirp => 2
  | .test => 3

/-- The level of a channel in Read Sounders: 0 for none (R186). -/
def ChannelMode.levelCode : ChannelMode → Nat
  | .level l => l.code
  | .idle => 0
  | .chirp => 0
  | .test => 0

/-- Relay mode codes. -/
def RelayMode.code : RelayMode → Nat
  | .off => 0
  | .unacked => 1
  | .active => 2
  | .sounding => 3

/-- Channel numbers. -/
def chanCode : ChanId → Nat
  | .ch0 => 0
  | .ch1 => 1

/-- A test set character: bit 0 KEY, bit 1 LINK_A, bit 2 LINK_B. -/
def TestSet.code (t : TestSet) : Nat := bitVal t.key 0 + bitVal t.linkA 1 + bitVal t.linkB 2

/-- A relay set character: bit 0 RLY0, bit 1 RLY1, bit 2 RLY2. -/
def RelaySet.code (r : RelaySet) : Nat := bitVal r.rly0 0 + bitVal r.rly1 1 + bitVal r.rly2 2

/-- A level set character: bit l for level l; bit 0 is 0 (R186). -/
def LevelSet.code (w : LevelSet) : Nat := bitVal w.low 1 + bitVal w.high 2 + bitVal w.urgent 3

/-- The flags of a point status record: condition, enabled, mark, hushed, claim (11.8). -/
def pointFlags (abnormal enabled mark hushed claim : Bool) : Nat :=
  bitVal abnormal 0 + bitVal enabled 1 + bitVal mark 2 + bitVal hushed 3 + bitVal claim 4

/-- A level character of Read Lines: bit 0 raw HIGH, bit 1 qualified ABNORMAL (11.8). -/
def lineFlags (raw : Wire) (abnormal : Bool) : Nat := bitVal (decide (raw = .high)) 0 + bitVal abnormal 1

/-- A key character of Read Panel: bit 0 raw HIGH, bit 1 PRESSED, bit 2 lockout (11.8). -/
def keyFlags (raw : Wire) (pressed lock : Bool) : Nat :=
  bitVal (decide (raw = .high)) 0 + bitVal pressed 1 + bitVal lock 2

/-- 255 where none is meant (R186). -/
def orNone {n : Nat} : Option (Fin n) → Nat
  | none => 255
  | some p => p.val

end Sys2Proof.Machine
end

