-- ==== Sys2Proof/Machine/Operands.lean ====
section
/-! DEFINITION. The frames and bodies of the message catalogue (chapters 10, 11): CRC, kinds, request fields,
configuration records, journal records. -/

namespace Sys2Proof.Machine

/-! ## Numbers and characters (R186) -/

/-- A number as `n` characters, high byte first; what does not fit is cut off at the top. -/
def be (n x : Nat) : List Byte :=
  match n with
  | 0 => []
  | k + 1 => BitVec.ofNat 8 (x / 256 ^ k) :: be k x

/-- The number that characters give, high byte first. -/
def fromBe (bs : List Byte) : Nat := bs.foldl (fun n b => n * 256 + b.toNat) 0

/-- The number in the `size` characters of a body from offset `at_` on. -/
def field (body : List Byte) (at_ size : Nat) : Nat := fromBe ((body.drop at_).take size)

/-! ## The CRC (R168) -/

/-- One data bit entered into the CRC register. -/
def crcBit (r : BitVec 16) (b : Bool) : BitVec 16 :=
  if r.msb = b then r <<< 1 else (r <<< 1) ^^^ 0x1021#16

/-- One character entered into the CRC register, most significant bit first. -/
def crcByte (r : BitVec 16) (c : Byte) : BitVec 16 :=
  [7, 6, 5, 4, 3, 2, 1, 0].foldl (fun r i => crcBit r (c.getLsbD i)) r

/-- The CRC of LEN, TAG, KIND and the body. -/
def crcOf (cs : List Byte) : BitVec 16 := cs.foldl crcByte 0xFFFF#16

/-! ## Frames from the part (R165, R174) -/

/-- A frame from the part: SYNC 5Ah, LEN, TAG, KIND, body, CRC. -/
def frameChars (tag kind : Byte) (body : List Byte) : List Byte :=
  let covered := BitVec.ofNat 8 (body.length + 2) :: tag :: kind :: body
  (0x5A : Byte) :: covered ++ be 2 (crcOf covered).toNat

/-- A reply's KIND: the request's with the top bit set (R174). -/
def replyKind (kind : Byte) : Byte := kind ||| 0x80

/-- A reply's characters: its body opens with status and flags (R174). -/
def Reply.chars (r : Reply) : List Byte :=
  frameChars r.tag (replyKind r.kind) (be 1 r.answer.status.code ++ be 1 r.answer.flags.code ++ r.answer.data)

/-! ## Request kinds (11.4) -/

/-- The kind a KIND character names (11.4). -/
def RequestKind.ofCode (k : Byte) : Option RequestKind :=
  match k.toNat with
  | 0x01 => some .hello
  | 0x02 => some .ping
  | 0x03 => some .readLinkStatus
  | 0x10 => some .readPoint
  | 0x11 => some .readSummary
  | 0x12 => some .readLines
  | 0x13 => some .readGroups
  | 0x14 => some .readShelf
  | 0x15 => some .readSounders
  | 0x16 => some .readPanel
  | 0x20 => some .raise
  | 0x21 => some .clear
  | 0x22 => some .acknowledgeAll
  | 0x23 => some .acknowledgePoint
  | 0x24 => some .silence
  | 0x25 => some .resetAll
  | 0x26 => some .resetPoint
  | 0x27 => some .shelvePoint
  | 0x28 => some .unshelvePoint
  | 0x29 => some .testBegin
  | 0x2A => some .testEnd
  | 0x2B => some .chirp
  | 0x30 => some .subscribe
  | 0x31 => some .grantCredits
  | 0x32 => some .unsubscribe
  | 0x33 => some .fetch
  | 0x34 => some .setClock
  | 0x40 => some .openSession
  | 0x41 => some .stagePoint
  | 0x42 => some .stageLine
  | 0x43 => some .stageTone
  | 0x44 => some .stageRelay
  | 0x45 => some .stageLink
  | 0x46 => some .stageGlobal
  | 0x47 => some .readStaged
  | 0x48 => some .readActive
  | 0x49 => some .discard
  | 0x4A => some .commit
  | 0x4B => some .closeSession
  | 0x50 => some .restart
  | _ => none

/-- The KIND character of a request kind (11.4). -/
def RequestKind.code : RequestKind → Byte
  | .hello => 0x01
  | .ping => 0x02
  | .readLinkStatus => 0x03
  | .readPoint => 0x10
  | .readSummary => 0x11
  | .readLines => 0x12
  | .readGroups => 0x13
  | .readShelf => 0x14
  | .readSounders => 0x15
  | .readPanel => 0x16
  | .raise => 0x20
  | .clear => 0x21
  | .acknowledgeAll => 0x22
  | .acknowledgePoint => 0x23
  | .silence => 0x24
  | .resetAll => 0x25
  | .resetPoint => 0x26
  | .shelvePoint => 0x27
  | .unshelvePoint => 0x28
  | .testBegin => 0x29
  | .testEnd => 0x2A
  | .chirp => 0x2B
  | .subscribe => 0x30
  | .grantCredits => 0x31
  | .unsubscribe => 0x32
  | .fetch => 0x33
  | .setClock => 0x34
  | .openSession => 0x40
  | .stagePoint => 0x41
  | .stageLine => 0x42
  | .stageTone => 0x43
  | .stageRelay => 0x44
  | .stageLink => 0x45
  | .stageGlobal => 0x46
  | .readStaged => 0x47
  | .readActive => 0x48
  | .discard => 0x49
  | .commit => 0x4A
  | .closeSession => 0x4B
  | .restart => 0x50

/-- The body lengths a kind accepts, least and greatest (11.4, R189). -/
def RequestKind.lengths : RequestKind → Nat × Nat
  | .hello => (3, 3)
  | .ping => (0, 0)
  | .readLinkStatus => (2, 2)
  | .readPoint => (2, 2)
  | .readSummary => (0, 0)
  | .readLines => (0, 0)
  | .readGroups => (0, 0)
  | .readShelf => (0, 0)
  | .readSounders => (0, 0)
  | .readPanel => (0, 0)
  | .raise => (1, 16)
  | .clear => (1, 16)
  | .acknowledgeAll => (0, 0)
  | .acknowledgePoint => (3, 3)
  | .silence => (0, 0)
  | .resetAll => (0, 0)
  | .resetPoint => (1, 1)
  | .shelvePoint => (3, 3)
  | .unshelvePoint => (1, 1)
  | .testBegin => (1, 1)
  | .testEnd => (0, 0)
  | .chirp => (0, 0)
  | .subscribe => (6, 6)
  | .grantCredits => (1, 1)
  | .unsubscribe => (0, 0)
  | .fetch => (5, 5)
  | .setClock => (6, 6)
  | .openSession => (0, 0)
  | .stagePoint => (11, 11)
  | .stageLine => (4, 4)
  | .stageTone => (13, 13)
  | .stageRelay => (2, 2)
  | .stageLink => (3, 3)
  | .stageGlobal => (8, 8)
  | .readStaged => (2, 2)
  | .readActive => (2, 2)
  | .discard => (0, 0)
  | .commit => (0, 0)
  | .closeSession => (0, 0)
  | .restart => (1, 1)

/-- A body has the length its kind requires (R189). -/
def RequestKind.lengthOk (k : RequestKind) (body : List Byte) : Bool :=
  decide (k.lengths.1 ≤ body.length) && decide (body.length ≤ k.lengths.2)

/-- The authority a kind needs (R173). -/
def RequestKind.needs : RequestKind → Authority
  | .hello | .ping | .readLinkStatus | .readPoint | .readSummary | .readLines | .readGroups | .readShelf
  | .readSounders | .readPanel | .readActive | .subscribe | .grantCredits | .unsubscribe | .fetch => .observe
  | .raise | .clear | .acknowledgeAll | .acknowledgePoint | .silence | .resetAll | .resetPoint | .shelvePoint
  | .unshelvePoint | .testBegin | .testEnd | .chirp | .setClock => .operate
  | .openSession | .stagePoint | .stageLine | .stageTone | .stageRelay | .stageLink | .stageGlobal | .readStaged
  | .discard | .commit | .closeSession | .restart => .configure

/-- The levels of authority nest (R173). -/
def Authority.allows (have_ need : Authority) : Bool := decide (need.code ≤ have_.code)

/-! ## Answers (R174, R187) -/

/-- An OK answer with its reply data. -/
def okAnswer (data : List Byte) : Answer := { status := .ok, data := data }

/-- A refusal with its refusal body. -/
def refuse (status : Status) (data : List Byte := []) : Answer := { status := status, data := data }

/-- A RANGE refusal: the field's position, counting the first as 1, and the offending value (R187). -/
def refuseRange (position value : Nat) : Answer := refuse .range (be 1 position ++ be 4 value)

/-- The first field of a list of values that is out of its table, with its position; `n` is the position of the first
(R149, R187). -/
def firstBad (n : Nat) : List (Nat × Bool) → Option (Nat × Nat)
  | [] => none
  | (v, ok) :: rest => if ok then firstBad (n + 1) rest else some (n, v)

/-! ## Values out of their tables (R187) -/

/-- A value lies in a range. -/
def within (lo hi v : Nat) : Bool := decide (lo ≤ v) && decide (v ≤ hi)

/-- A pitch A, or a pitch of CHIRP: 200–5000 Hz in 10 Hz steps (R78). -/
def pitchOk (v : Nat) : Bool := within 200 5000 v && decide (v % 10 = 0)

/-- A pitch B: 0 or as pitch A (R78). -/
def pitchBOk (v : Nat) : Bool := decide (v = 0) || pitchOk v

/-- An on time: 50–5000 ms in 50 ms steps (R78). -/
def onTimeOk (v : Nat) : Bool := within 50 5000 v && decide (v % 50 = 0)

/-- An off time: 0–5000 ms in 50 ms steps (R78). -/
def offTimeOk (v : Nat) : Bool := within 0 5000 v && decide (v % 50 = 0)

/-! ## Codes read back (11.6) -/

/-- A sequence code. -/
def sequenceOf : Nat → Sequence
  | 0 => .hold
  | 1 => .follow
  | _ => .notice

/-- A priority. -/
def priorityOf : Nat → Priority
  | 0 => .mute
  | 1 => .low
  | 2 => .high
  | _ => .urgent

/-- A source code: 0–23 LINE n, then MSG_A, MSG_B, MSG_ANY, SILENT_A, SILENT_B. -/
def sourceOf (v : Nat) : Source :=
  match line? v with
  | some n => .line n
  | none =>
    match v with
    | 24 => .msg .a
    | 25 => .msg .b
    | 26 => .msgAny
    | 27 => .silent .a
    | _ => .silent .b

/-- A relay mode code. -/
def relayModeOf : Nat → RelayMode
  | 0 => .off
  | 1 => .unacked
  | 2 => .active
  | _ => .sounding

/-- An authority code. -/
def authorityOf : Nat → Authority
  | 0 => .observe
  | 1 => .operate
  | _ => .configure

/-- A profile code. -/
def profile? : Nat → Option ProfileId
  | 0 => some (.level .low)
  | 1 => some (.level .high)
  | 2 => some (.level .urgent)
  | 3 => some .chirp
  | 4 => some .test
  | _ => none

/-- A relay set character; its bits 3–7 are reserved (11.7, R188). -/
def relaySetOf (v : Nat) : RelaySet := ⟨v.testBit 0, v.testBit 1, v.testBit 2⟩

/-! ## Configuration records (11.7): their fields with the check of each, their reading and their layout.  A body `b` is
given from the record's first character on. -/

/-- The ten fields of a point record in order (R1). -/
def pointFields (b : List Byte) : List (Nat × Bool) :=
  [ (field b 0 1, within 0 1 (field b 0 1)),
    (field b 1 1, within 0 2 (field b 1 1)),
    (field b 2 1, within 0 3 (field b 2 1)),
    (field b 3 1, within 0 28 (field b 3 1)),
    (field b 4 1, decide (field b 4 1 = 255) || within 0 7 (field b 4 1)),
    (field b 5 1, decide (field b 5 1 = 255) || within 0 95 (field b 5 1)),
    (field b 6 1, decide (field b 6 1 = 0) || within 2 15 (field b 6 1)),
    (field b 7 1, within 1 240 (field b 7 1)),
    (field b 8 1, within 0 240 (field b 8 1)),
    (field b 9 1, true) ]

/-- A point record read from its fields. -/
def pointRecordOf (b : List Byte) : PointConfig where
  enabled := decide (field b 0 1 = 1)
  sequence := sequenceOf (field b 1 1)
  priority := priorityOf (field b 2 1)
  source := sourceOf (field b 3 1)
  group := group? (field b 4 1)
  suppressor := point? (field b 5 1)
  chatterLimit := field b 6 1
  chatterShelveMinutes := field b 7 1
  reminderMinutes := field b 8 1
  relays := relaySetOf (field b 9 1)

/-- A point record's 10 characters. -/
def PointConfig.chars (c : PointConfig) : List Byte :=
  be 1 (yesNo c.enabled) ++ be 1 c.sequence.code ++ be 1 c.priority.code ++ be 1 c.source.code ++ be 1 (orNone c.group)
    ++ be 1 (orNone c.suppressor) ++ be 1 c.chatterLimit ++ be 1 c.chatterShelveMinutes ++ be 1 c.reminderMinutes
    ++ be 1 c.relays.code

/-- The three fields of a line record (R30). -/
def lineFields (b : List Byte) : List (Nat × Bool) :=
  [ (field b 0 1, within 0 1 (field b 0 1)),
    (field b 1 1, within 1 64 (field b 1 1)),
    (field b 2 1, within 1 64 (field b 2 1)) ]

/-- A line record read from its fields. -/
def lineRecordOf (b : List Byte) : LineConfig where
  polarity := if field b 0 1 = 0 then .activeLow else .activeHigh
  onCount := field b 1 1
  offCount := field b 2 1

/-- A line record's 3 characters. -/
def LineConfig.chars (c : LineConfig) : List Byte := be 1 c.polarity.code ++ be 1 c.onCount ++ be 1 c.offCount

/-- The fields of a tone record, by its profile (R78, 11.7); the unused tail is reserved (R188). -/
def toneFields (b : List Byte) : ProfileId → List (Nat × Bool)
  | .level _ =>
    [ (field b 0 2, pitchOk (field b 0 2)),
      (field b 2 2, pitchBOk (field b 2 2)),
      (field b 4 2, onTimeOk (field b 4 2)),
      (field b 6 2, offTimeOk (field b 6 2)),
      (field b 8 1, within 1 15 (field b 8 1)),
      (field b 9 1, within 1 15 (field b 9 1)),
      (field b 10 1, within 0 60 (field b 10 1)) ]
  | .chirp =>
    [ (field b 0 2, pitchOk (field b 0 2)),
      (field b 2 2, within 20 500 (field b 2 2)),
      (field b 4 1, within 1 15 (field b 4 1)) ]
  | .test =>
    [ (field b 0 2, pitchOk (field b 0 2)),
      (field b 2 2, pitchBOk (field b 2 2)),
      (field b 4 2, onTimeOk (field b 4 2)),
      (field b 6 2, offTimeOk (field b 6 2)),
      (field b 8 1, within 1 15 (field b 8 1)) ]

/-- A tone set with one profile replaced by the record read from its fields. -/
def ToneSet.withRecord (t : ToneSet) (b : List Byte) : ProfileId → ToneSet
  | .level l =>
    t.setLevel l ⟨field b 0 2, field b 2 2, field b 4 2, field b 6 2, field b 8 1, field b 9 1, field b 10 1⟩
  | .chirp => { t with chirp := ⟨field b 0 2, field b 2 2, field b 4 1⟩ }
  | .test => { t with test := ⟨field b 0 2, field b 2 2, field b 4 2, field b 6 2, field b 8 1⟩ }

/-- A tone record's 12 characters, reserved ones 0 (11.7, R188). -/
def ToneSet.chars (t : ToneSet) : ProfileId → List Byte
  | .level l =>
    let p := t.level l
    be 2 p.pitchA ++ be 2 p.pitchB ++ be 2 p.onTime ++ be 2 p.offTime ++ be 1 p.startLoudness ++ be 1 p.endLoudness
      ++ be 1 p.stepInterval ++ be 1 0
  | .chirp => be 2 t.chirp.pitch ++ be 2 t.chirp.duration ++ be 1 t.chirp.loudness ++ be 7 0
  | .test =>
    be 2 t.test.pitchA ++ be 2 t.test.pitchB ++ be 2 t.test.onTime ++ be 2 t.test.offTime ++ be 1 t.test.loudness ++ be 3 0

/-- The one field of a relay record (R113). -/
def relayFields (b : List Byte) : List (Nat × Bool) := [(field b 0 1, within 0 3 (field b 0 1))]

/-- The two fields of a link record (R145). -/
def linkFields (b : List Byte) : List (Nat × Bool) :=
  [ (field b 0 1, within 0 2 (field b 0 1)),
    (field b 1 1, within 0 60 (field b 1 1)) ]

/-- A link record read from its fields. -/
def linkRecordOf (b : List Byte) : LinkConfig where
  authority := authorityOf (field b 0 1)
  heartbeat := field b 1 1

/-- A link record's 2 characters. -/
def LinkConfig.chars (c : LinkConfig) : List Byte := be 1 c.authority.code ++ be 1 c.heartbeat

/-- The seven fields of the global record (R145). -/
def globalFields (b : List Byte) : List (Nat × Bool) :=
  [ (field b 0 2, within 10 600 (field b 0 2)),
    (field b 2 1, within 0 1 (field b 2 1)),
    (field b 3 1, within 0 1 (field b 3 1)),
    (field b 4 1, within 0 1 (field b 4 1)),
    (field b 5 1, within 0 1 (field b 5 1)),
    (field b 6 1, within 0 1 (field b 6 1)),
    (field b 7 1, within 0 1 (field b 7 1)) ]

/-- A global record read from its fields. -/
def globalRecordOf (b : List Byte) : GlobalConfig where
  chatterWindow := field b 0 2
  dual := decide (field b 2 1 = 1)
  lockAck := decide (field b 3 1 = 1)
  lockSilence := decide (field b 4 1 = 1)
  lockReset := decide (field b 5 1 = 1)
  lockTest := decide (field b 6 1 = 1)
  keyChirp := decide (field b 7 1 = 1)

/-- A global record's 8 characters. -/
def GlobalConfig.chars (c : GlobalConfig) : List Byte :=
  be 2 c.chatterWindow ++ be 1 (yesNo c.dual) ++ be 1 (yesNo c.lockAck) ++ be 1 (yesNo c.lockSilence)
    ++ be 1 (yesNo c.lockReset) ++ be 1 (yesNo c.lockTest) ++ be 1 (yesNo c.keyChirp)

/-- The record a set character and a record name character name, or the RANGE refusal (R150, R187); the global record's
name is not used and not checked (R188). -/
def recordName (set name : Nat) : Except Answer RecordName :=
  let named (r : Option RecordName) : Except Answer RecordName :=
    match r with
    | some n => .ok n
    | none => .error (refuseRange 2 name)
  match set with
  | 0 => named ((point? name).map .point)
  | 1 => named ((line? name).map .line)
  | 2 => named ((profile? name).map .tone)
  | 3 => named ((relay? name).map .relay)
  | 4 => named ((link? name).map .link)
  | 5 => .ok .global
  | _ => .error (refuseRange 1 set)

/-- A record as a Read reply carries it: record name and record, and for the global record the record alone (11.4). -/
def Configuration.recordChars (c : Configuration) (name : Nat) : RecordName → List Byte
  | .point p => be 1 name ++ c.points[p].chars
  | .line n => be 1 name ++ c.lines[n].chars
  | .tone t => be 1 name ++ c.tones.chars t
  | .relay r => be 1 name ++ be 1 c.relays[r].code
  | .link l => be 1 name ++ (c.link l).chars
  | .global => c.global.chars

/-- A tone profile differs between two sets. -/
def ToneSet.differs (x y : ToneSet) : ProfileId → Bool
  | .level l => decide (x.level l ≠ y.level l)
  | .chirp => decide (x.chirp ≠ y.chirp)
  | .test => decide (x.test ≠ y.test)

/-- A record differs between two configurations: any of its fields does (R145). -/
def Configuration.differs (x y : Configuration) : RecordName → Bool
  | .point p => decide (x.points[p] ≠ y.points[p])
  | .line n => decide (x.lines[n] ≠ y.lines[n])
  | .tone t => x.tones.differs y.tones t
  | .relay r => decide (x.relays[r] ≠ y.relays[r])
  | .link l => decide (x.link l ≠ y.link l)
  | .global => decide (x.global ≠ y.global)

/-- The 131 records of a configuration by name (R145). -/
def allRecords : List RecordName :=
  allPoints.map .point ++ allLines.map .line
    ++ [.tone (.level .low), .tone (.level .high), .tone (.level .urgent), .tone .chirp, .tone .test]
    ++ allRelays.map .relay ++ [.link .a, .link .b, .global]

/-- The number of records in which two configurations differ (R151). -/
def Configuration.countDiffering (x y : Configuration) : Nat := (allRecords.filter (x.differs y)).length

/-- The number of point records in which two configurations differ (R158). -/
def Configuration.countPointsChanged (x y : Configuration) : Nat :=
  (allPoints.filter fun p => x.points[p] ≠ y.points[p]).length

/-! ## Journal records on the wire (R190) -/

/-- A journal record's 20 characters; absent point, from, to and cause are 255, absent occurrence and detail 0. -/
def Record.chars (r : Record) : List Byte :=
  be 4 r.seq ++ be 6 r.time ++ be 1 r.body.kind.code ++ be 1 (bitVal (decide (r.basis = .calendar)) 7 + r.body.origin.code)
    ++ be 1 (orNone r.body.point)
    ++ be 1 (match r.body.states with | some (f, _) => f.code | none => 255)
    ++ be 1 (match r.body.states with | some (_, t) => t.code | none => 255)
    ++ be 1 (match r.body.cause with | some c => c.code | none => 255)
    ++ be 2 (r.body.occurrence.getD 0) ++ be 2 (r.body.detail.getD 0)

/-- An event report: TAG 0, KIND 60h, the record and the credits outstanding after the frame (R138, 11.1). -/
def reportChars (r : Record) (credits : Nat) : List Byte := frameChars 0 0x60 (r.chars ++ be 1 credits)

end Sys2Proof.Machine
end

