-- ==== Sys2Proof/Machine/Sounder.lean ====
section
/-! DEFINITION. The Sounder Controller (chapter 5): claims, assignment, tones, chirps and the test tone. -/

namespace Sys2Proof.Machine

/-! ## Claims and W (R83) -/

/-- A level is in a set of levels. -/
def LevelSet.has (w : LevelSet) : Level → Bool
  | .low => w.low
  | .high => w.high
  | .urgent => w.urgent

/-- W: the levels whose claim lists are not empty (R83). -/
def Sounder.w (s : Sounder) : LevelSet := ⟨!s.claims1.isEmpty, !s.claims2.isEmpty, !s.claims3.isEmpty⟩

/-- The levels of W, highest first. -/
def LevelSet.descending (w : LevelSet) : List Level := [Level.urgent, .high, .low].filter w.has

/-- A point stands in a claim list. -/
def claimsPoint (p : PointId) (cs : List Claim) : Bool := cs.any fun c => c.point = p

/-- The level whose list holds a point's claim. -/
def Sounder.claimLevel (s : Sounder) (p : PointId) : Option Level :=
  if claimsPoint p s.claims3 then some .urgent
  else if claimsPoint p s.claims2 then some .high
  else if claimsPoint p s.claims1 then some .low
  else none

/-- A claim list with a point taken out; the entries behind it close up. -/
def withoutPoint (p : PointId) (cs : List Claim) : List Claim := cs.filter fun c => c.point ≠ p

/-- A point's claim ended (R83). -/
def Sounder.endClaim (s : Sounder) (p : PointId) : Sounder :=
  { s with
    claims1 := withoutPoint p s.claims1
    claims2 := withoutPoint p s.claims2
    claims3 := withoutPoint p s.claims3 }

/-- A claim added at the end of a level's list (R83). -/
def Sounder.beginClaim (s : Sounder) (c : Claim) : Level → Sounder
  | .low => { s with claims1 := s.claims1 ++ [c] }
  | .high => { s with claims2 := s.claims2 ++ [c] }
  | .urgent => { s with claims3 := s.claims3 ++ [c] }

/-- A level's lead point: the last entry of its list (R83). -/
def Sounder.lead (s : Sounder) (l : Level) : Option Claim := (s.claims l).getLast?

/-! ## A channel's output (R79) -/

/-- The channel plays a level (R82, R87). -/
def Channel.inLevel (c : Channel) : Bool :=
  match c.mode with
  | .level _ => true
  | .idle => false
  | .chirp => false
  | .test => false

/-- The current pitch in Hz (R82). -/
def Channel.pitchHz (c : Channel) : Nat :=
  match c.copy, c.pitch with
  | .level t, .a => t.pitchA
  | .level t, .b => t.pitchB
  | .test t, .a => t.pitchA
  | .test t, .b => t.pitchB
  | .chirp t, _ => t.pitch

/-- The channel is sounding: it plays a tone and is in an on phase (R79). -/
def Channel.sounding (c : Channel) : Bool := decide (c.mode ≠ .idle) && c.phaseOn

/-- The number of the period of the wave that runs at elapsed count `now`, the first being 0 (R79). -/
def Channel.period (now : Nat) (c : Channel) : Nat :=
  (now + Config.clockModulus - c.waveStart % Config.clockModulus) % Config.clockModulus * c.pitchHz / 1000

/-- The loudness heard at elapsed count `now`: a change while the output is sounding takes effect from the next period of
the pitch (R79). -/
def Channel.heard (now : Nat) (c : Channel) : Nat :=
  match c.held with
  | none => c.loudness
  | some (v, changed) => if c.period now = c.period changed then v else c.loudness

/-- The record `new` taken by channel `c` while it goes on playing: a wave at the same pitch runs on, and a new loudness
waits for its next period; another pitch, or a sound after silence, begins its own wave (R79, log 22). -/
def Channel.carry (now : Nat) (c new : Channel) : Channel :=
  if c.sounding = true ∧ c.pitchHz = new.pitchHz then
    { new with
      waveStart := c.waveStart
      held := if new.loudness = c.loudness then c.held else some (c.heard now, now) }
  else { new with waveStart := now, held := none }

/-- The square wave of the output at elapsed count `now`: its frequency in Hz, and for how many 32nds of the running period
it is high; `none` while it is held low (R79). -/
def Channel.output (now : Nat) (c : Channel) : Option (Nat × Nat) :=
  if c.sounding then some (c.pitchHz, c.heard now) else none

/-! ## Starting tones (R80, R81, R85) -/

/-- A channel that starts a LEVEL profile (R81, R85). -/
def Channel.startLevel (now : Nat) (t : LevelTone) (l : Level) : Channel where
  mode := .level l
  copy := .level t
  pitch := .a
  loudness := t.startLoudness
  phaseOn := true
  cadence := some (clockAfter now t.onTime)
  escalation :=
    if t.stepInterval ≠ 0 ∧ t.startLoudness ≠ t.endLoudness then some (clockAfter now (t.stepInterval * 1000)) else none
  chirpTimer := none
  waveStart := now
  held := none

/-- A channel that starts TEST (R85, R96). -/
def Channel.startTest (now : Nat) (t : TestTone) : Channel where
  mode := .test
  copy := .test t
  pitch := .a
  loudness := t.loudness
  phaseOn := true
  cadence := some (clockAfter now t.onTime)
  escalation := none
  chirpTimer := none
  waveStart := now
  held := none

/-- A channel that starts a chirp (R85, R90). -/
def Channel.startChirp (now : Nat) (t : ChirpTone) : Channel where
  mode := .chirp
  copy := .chirp t
  pitch := .a
  loudness := t.loudness
  phaseOn := true
  cadence := none
  escalation := none
  chirpTimer := some (clockAfter now t.duration)
  waveStart := now
  held := none

/-- A channel that goes IDLE: all its timers stop and its output is held low (R85).  Copy, pitch and loudness stay as
they were (log 13). -/
def Channel.goIdle (c : Channel) : Channel :=
  { c with mode := .idle, phaseOn := false, cadence := none, escalation := none, chirpTimer := none }

/-! ## Assignment (R84) -/

/-- Channel 0's target: the highest level in W. -/
def Sounder.target0 (s : Sounder) : Option Level := s.w.descending.head?

/-- Channel 1's target: with DUAL on, the second-highest level in W. -/
def Sounder.target1 (s : Sounder) : Option Level := if s.dual then s.w.descending[1]? else none

/-- A channel brought to its target (the table of R84).  `restart` holds the levels whose profile changed at the apply
that evaluates (R99, R100). -/
def Channel.bring (now : Nat) (tones : ToneSet) (restart : LevelSet) (target : Option Level) (c : Channel) : Channel :=
  match c.mode, target with
  | .level l, some m =>
    if l = m ∧ restart.has l = false then c else Channel.startLevel now (tones.level m) m
  | .level _, none => c.goIdle
  | .idle, some l => Channel.startLevel now (tones.level l) l
  | .idle, none => c
  | .chirp, some l => Channel.startLevel now (tones.level l) l
  | .chirp, none => c
  | .test, some l => Channel.startLevel now (tones.level l) l
  | .test, none => c.goIdle

/-- One evaluation of the assignment, channel 0 first (R84). -/
def Sounder.assign (now : Nat) (restart : LevelSet) (s : Sounder) : Sounder :=
  { s with
    ch0 := s.ch0.bring now s.tones restart s.target0
    ch1 := s.ch1.bring now s.tones restart s.target1 }

/-- An evaluation where test allows one: while test is active none is made (R96). -/
def Sounder.evaluate (test : Bool) (now : Nat) (restart : LevelSet) (s : Sounder) : Sounder :=
  if test then s else s.assign now restart

/-- A claim change as the Sequence Engine passes it: the point's claim is to stand at `level` (or at none).  A change of W
evaluates the assignment at once, unless test is active or the evaluation waits for the operation's end (R83, R96,
R100, R101). -/
def Sounder.passClaim (test defer : Bool) (now : Nat) (p : PointId) (level : Option Level) (stamp : Nat)
    (s : Sounder) : Sounder :=
  if s.claimLevel p = level then s
  else
    let s' := match level with
      | none => s.endClaim p
      | some l => (s.endClaim p).beginClaim ⟨p, stamp⟩ l
    if s'.w = s.w ∨ defer = true then s' else s'.evaluate test now {}

/-! ## Test (R96, R97) -/

/-- Both channels start TEST from fresh copies (R96). -/
def Sounder.startTest (now : Nat) (s : Sounder) : Sounder :=
  { s with ch0 := Channel.startTest now s.tones.test, ch1 := Channel.startTest now s.tones.test }

/-! ## Chirps (R89, R91, R93) -/

/-- A channel is playing a chirp. -/
def Channel.chirping (c : Channel) : Bool := decide (c.mode = .chirp)

/-- A playing chirp extended: a fresh copy and a full duration, and the output sounds on without a break (R91). -/
def Channel.extendChirp (now : Nat) (t : ChirpTone) (c : Channel) : Channel := c.carry now (Channel.startChirp now t)

/-- A chirp request placed by the common rule (R89): extend a playing chirp, start on a free channel 1, or drop. -/
def Sounder.chirp (now : Nat) (s : Sounder) : Sounder × ChirpOutcome :=
  if s.ch0.chirping then ({ s with ch0 := s.ch0.extendChirp now s.tones.chirp }, .extended .ch0)
  else if s.ch1.chirping then ({ s with ch1 := s.ch1.extendChirp now s.tones.chirp }, .extended .ch1)
  else if s.ch1.mode = .idle then ({ s with ch1 := Channel.startChirp now s.tones.chirp }, .started .ch1)
  else ({ s with dropped := cap16 (s.dropped + 1) }, .dropped)

/-! ## Timed changes (R80, R81, R90) -/

/-- The on and off times of a playing copy, and whether it has a pitch B (R80). -/
def PlayingCopy.cadence : PlayingCopy → Nat × Nat × Bool
  | .level t => (t.onTime, t.offTime, t.pitchB ≠ 0)
  | .test t => (t.onTime, t.offTime, t.pitchB ≠ 0)
  | .chirp t => (t.duration, 0, false)

/-- The pitch of the on phase after one at `p` (R80). -/
def nextPitch (hasB : Bool) (p : PitchSel) : PitchSel :=
  match hasB, p with
  | true, .a => .b
  | true, .b => .a
  | false, _ => .a

/-- A channel at the start of its next on phase (R80). -/
def Channel.nextOn (now : Nat) (c : Channel) : Channel :=
  c.carry now { c with
    phaseOn := true
    pitch := nextPitch c.copy.cadence.2.2 c.pitch
    cadence := some (clockAfter now c.copy.cadence.1) }

/-- The present phase of a cadence ends and the next begins (R80). -/
def Channel.nextPhase (now : Nat) (c : Channel) : Channel :=
  if c.phaseOn ∧ c.copy.cadence.2.1 ≠ 0 then
    { c with phaseOn := false, cadence := some (clockAfter now c.copy.cadence.2.1) }
  else c.nextOn now

/-- One loudness step towards the end loudness, and the timer after it (R81). -/
def Channel.escalate (now : Nat) (c : Channel) : Channel :=
  match c.copy with
  | .level t =>
    let v := if t.startLoudness < t.endLoudness then c.loudness + 1 else c.loudness - 1
    c.carry now { c with
      loudness := v
      escalation := if v = t.endLoudness then none else some (clockAfter now (t.stepInterval * 1000)) }
  | .chirp _ => { c with escalation := none }
  | .test _ => { c with escalation := none }

/-! ## What Read Sounders shows of a channel (R98) -/

/-- The sounding pitch: the current pitch during an on phase, 0 while the output is held low (R79, R98). -/
def Channel.soundingHz (c : Channel) : Nat := if c.sounding then c.pitchHz else 0

/-- The loudness as Read Sounders gives it: 0 while IDLE (R98). -/
def Channel.shownLoudness (c : Channel) : Nat := if c.mode = .idle then 0 else c.loudness

end Sys2Proof.Machine
end

