-- ==== Sys2Proof/Machine/Sequence.lean ====
section
/-! DEFINITION. The Sequence Engine and the Shelf Unit (chapters 1, 3 and 4): what reaches a point and what follows from
it in the groups, the shelf table, the claims, the lamp image and the Journal. -/

namespace Sys2Proof.Machine

/-! ## Points -/

/-- The active states (R3). -/
def PointState.active : PointState → Bool
  | .alerting | .standing | .returned | .awaitReset => true
  | .disabled | .idle | .suppressed | .shelved => false

/-- The lamp pattern of a point (R19). -/
def Point.pattern (d : Point) : Pattern :=
  match d.state with
  | .alerting => if d.mark then .double else .fast
  | .standing => .steady
  | .returned => .slow
  | .awaitReset => .slow
  | .disabled => .off
  | .idle => .off
  | .suppressed => .off
  | .shelved => .off

/-- The level of a priority; MUTE has none (R18). -/
def Priority.level? : Priority → Option Level
  | .mute => none
  | .low => some .low
  | .high => some .high
  | .urgent => some .urgent

/-- The level a point claims at, by R18. -/
def claimOf (c : PointConfig) (d : Point) : Option Level :=
  if d.state = .alerting ∧ d.hushed = false then c.priority.level? else none

/-- The occurrence number after `n`: 1 after 65 535 (R6). -/
def occurrenceAfter (n : Nat) : Nat := if n < 65535 then n + 1 else 1

/-- A point's dynamic record replaced, and its pattern passed to the lamp image (R19, R110). -/
def Alarm.setPoint (a : Alarm) (p : PointId) (d : Point) : Alarm :=
  { a with points := a.points.set p d, lamps := a.lamps.set p d.pattern }

/-- A point's claim, as it now stands, passed to the Sounder Controller (R18, R83). -/
def Alarm.passClaim (e : Env) (p : PointId) (a : Alarm) : Alarm :=
  let d := a.points[p]
  { a with
    sounder := a.sounder.passClaim e.test e.defer a.journal.elapsed p (claimOf e.config.points[p] d) d.entryStamp }

/-- A record appended to the Journal. -/
def Alarm.append (b : RecordBody) (a : Alarm) : Alarm := { a with journal := a.journal.append b }

/-- A POINT record for a point whose dynamic record is `d` after the change (R5). -/
def pointRecord (e : Env) (p : PointId) (origin : PointState) (d : Point) (cause : Cause) : RecordBody where
  kind := .point
  origin := e.origin
  point := some p
  states := some (origin, d.state)
  cause := some cause
  occurrence := some d.occurrence
  detail := some (if d.mark then 1 else 0)

/-- A point takes a new dynamic record: lamp, claim, and one POINT record (R5, R18, R19). -/
def Alarm.transition (e : Env) (p : PointId) (d : Point) (cause : Cause) (a : Alarm) : Alarm :=
  ((a.setPoint p d).passClaim e p).append (pointRecord e p a.points[p].state d cause)

/-- An event that leaves the state as it is, journaled with the same state as from and to (R4). -/
def Alarm.stay (e : Env) (p : PointId) (cause : Cause) (a : Alarm) : Alarm :=
  a.append (pointRecord e p a.points[p].state a.points[p] cause)

/-- The reminder timer of a point that enters STANDING (R16). -/
def Alarm.reminderStart (e : Env) (p : PointId) (a : Alarm) : Timer :=
  let c := e.config.points[p]
  if c.sequence ≠ .notice ∧ 0 < c.reminderMinutes then some (clockAfter a.journal.elapsed (c.reminderMinutes * 60000))
  else none

/-- A point's dynamic record once it has gone to a state: hushed cleared (R17), the mark lost on leaving the active states
(R8), the reminder running only in STANDING (R16). -/
def Alarm.moved (e : Env) (p : PointId) (to_ : PointState) (a : Alarm) : Point :=
  let d := a.points[p]
  { d with
    state := to_
    hushed := false
    mark := if d.state.active && !to_.active then false else d.mark
    reminder := if to_ = .standing then a.reminderStart e p else none }

/-! ## Entries (R7 steps 2 and 3, R47) -/

/-- A point's group is armed, and the point names it (R7 step 3). -/
def Alarm.findsArmed (e : Env) (p : PointId) (a : Alarm) : Bool :=
  match e.config.points[p].group with
  | none => false
  | some g => a.groups[g].armed

/-- The group record after a member has taken the mark (R47). -/
def Alarm.disarm (e : Env) (p : PointId) (a : Alarm) : Alarm :=
  match e.config.points[p].group with
  | none => a
  | some g => { a with groups := a.groups.set g { a.groups[g] with armed := false, first := some p } }

/-- A chirp requested of the Sounder Controller (R89). -/
def Alarm.chirp (a : Alarm) : Alarm := { a with sounder := (a.sounder.chirp a.journal.elapsed).1 }

/-- Steps 2 and 3 of the entry test: HOLD and FOLLOW enter ALERTING, NOTICE enters STANDING with a chirp; the entry
stamp is the number of the record appended; the first member of an armed group takes the mark (R7, R47). -/
def Alarm.enter (e : Env) (p : PointId) (cause : Cause) (a : Alarm) : Alarm :=
  let d := a.points[p]
  let takes := a.findsArmed e p
  let a' := if takes then a.disarm e p else a
  match e.config.points[p].sequence with
  | .notice =>
    a'.chirp.transition e p
      { d with state := .standing, hushed := false, mark := takes || d.mark, entryStamp := a.journal.nextSeq, reminder := none }
      cause
  | .hold | .follow =>
    a'.transition e p
      { d with state := .alerting, hushed := false, mark := takes || d.mark, entryStamp := a.journal.nextSeq, reminder := none }
      cause

/-! ## Leaving the active states (R8, R50, R54) -/

/-- A group has a member in an active state (R50). -/
def Alarm.groupActive (c : Configuration) (g : GroupId) (a : Alarm) : Bool :=
  allPoints.any fun q => decide (c.points[q].group = some g) && a.points[q].state.active

/-- The re-arm check of a group (R50). -/
def Alarm.rearm (c : Configuration) (g : GroupId) (a : Alarm) : Alarm :=
  if a.groupActive c g then a
  else { a with groups := a.groups.set g { a.groups[g] with armed := true, first := none } }

/-- The re-arm check of a point's group (R8). -/
def Alarm.rearmGroupOf (c : Configuration) (p : PointId) (a : Alarm) : Alarm :=
  match c.points[p].group with
  | none => a
  | some g => a.rearm c g

/-- The points SUPPRESSED with `p` as their suppressor (R54). -/
def Alarm.heldBack (c : Configuration) (p : PointId) (a : Alarm) : List PointId :=
  allPoints.filter fun q => decide (a.points[q].state = .suppressed) && decide (c.points[q].suppressor = some p)

/-- Points released from SUPPRESSED one after the other (R54, R59). -/
def Alarm.release (e : Env) (ps : List PointId) (a : Alarm) : Alarm :=
  ps.foldl (fun a q => a.enter e q .release) a

/-- What follows the record of a point that has left the active states: its consequents are released, then its group's
re-arm check runs (R8). -/
def Alarm.left (e : Env) (p : PointId) (a : Alarm) : Alarm :=
  (a.release e (a.heldBack e.config p)).rearmGroupOf e.config p

/-- A point goes to a state other than by an entry: its record, and R8's effects where that leaves the active states. -/
def Alarm.move (e : Env) (p : PointId) (to_ : PointState) (cause : Cause) (a : Alarm) : Alarm :=
  let a' := a.transition e p (a.moved e p to_) cause
  if a.points[p].state.active && !to_.active then a'.left e p else a'

/-! ## New occurrences (R6, R7, R53) -/

/-- A point's suppressor is in an active state (R7 step 1). -/
def Alarm.suppressorActive (c : Configuration) (p : PointId) (a : Alarm) : Bool :=
  match c.points[p].suppressor with
  | none => false
  | some q => a.points[q].state.active

/-- A point begins a new occurrence by the entry test (R6, R7).  A point held back from an active state leaves the active
states by the definition of R3, so R8's effects follow (log 17). -/
def Alarm.newOccurrence (e : Env) (p : PointId) (cause : Cause) (a : Alarm) : Alarm :=
  let d := a.points[p]
  let a' := a.setPoint p { d with occurrence := occurrenceAfter d.occurrence }
  if a'.suppressorActive e.config p then a'.move e p .suppressed .suppress else a'.enter e p cause

/-! ## The shelf table (R62 to R68, R73) -/

/-- An entry put at its place in the order of expiry, after every entry whose expiry is earlier or equal (R62). -/
def insertEntry (now : Nat) (n : ShelfEntry) : List ShelfEntry → List ShelfEntry
  | [] => [n]
  | m :: rest =>
    if timeLeft now m.expiry ≤ timeLeft now n.expiry then m :: insertEntry now n rest else n :: m :: rest

/-- The table without a point's entry; the entries behind it close up (R67). -/
def withoutEntry (p : PointId) (es : List ShelfEntry) : List ShelfEntry := es.filter fun n => n.point ≠ p

/-- A point's entry. -/
def Alarm.shelfEntry (p : PointId) (a : Alarm) : Option ShelfEntry := a.shelf.find? fun n => n.point = p

/-- An entry made now (R63). -/
def Alarm.newEntry (p : PointId) (origin : ShelfOrigin) (minutes : Nat) (a : Alarm) : ShelfEntry :=
  ⟨p, origin, minutes, clockAfter a.journal.elapsed (minutes * 60000)⟩

/-- An entry added, or in the place of the point's old one (R64, R65). -/
def Alarm.placeEntry (n : ShelfEntry) (a : Alarm) : Alarm :=
  { a with shelf := insertEntry a.journal.elapsed n (withoutEntry n.point a.shelf) }

/-- A point's entry removed. -/
def Alarm.removeEntry (p : PointId) (a : Alarm) : Alarm := { a with shelf := withoutEntry p a.shelf }

/-- A point's chatter record replaced. -/
def Alarm.setChatter (p : PointId) (c : Chatter) (a : Alarm) : Alarm := { a with chatter := a.chatter.set p c }

/-- A point shelved: the entry is added, the chatter record cleared, and the shelve event handed over (R13, R62, R64,
R70, R73). -/
def Alarm.shelve (e : Env) (n : ShelfEntry) (cause : Cause) (a : Alarm) : Alarm :=
  ((a.placeEntry n).setChatter n.point {}).move e n.point .shelved cause

/-- A point unshelved: the entry is removed and the unshelve event handed over (R14, R62, R67, R68). -/
def Alarm.unshelve (e : Env) (p : PointId) (cause : Cause) (a : Alarm) : Alarm :=
  let a' := a.removeEntry p
  if a.points[p].abnormal then a'.newOccurrence e p cause else a'.move e p .idle cause

/-! ## Chatter (R70 to R74) -/

/-- A point at its chatter limit: shelved by the part, or recorded with SHELF_FULL (R73, R74). -/
def Alarm.limitReached (e : Env) (p : PointId) (a : Alarm) : Alarm :=
  if a.shelf.length < Config.shelfSize then
    a.shelve { e with origin := .part } (a.newEntry p .chatter e.config.points[p].chatterShelveMinutes) .chatter
  else
    (a.setChatter p {}).append
      { kind := .shelfFull, origin := .part, point := some p, occurrence := some a.points[p].occurrence }

/-- A QA counted for chatter (R71). -/
def Alarm.countQA (e : Env) (p : PointId) (a : Alarm) : Alarm :=
  let limit := e.config.points[p].chatterLimit
  if limit = 0 then a
  else
    let c := a.chatter[p]
    let c' : Chatter :=
      if c.count = 0 then ⟨1, some (clockAfter a.journal.elapsed (e.config.global.chatterWindow * 1000))⟩
      else { c with count := c.count + 1 }
    if limit ≤ c'.count then a.limitReached e p else a.setChatter p c'

/-! ## Condition changes (R4, R9 to R13) -/

/-- QA applied to a point's sequence (R9, R10, R11, R13, R15). -/
def Alarm.qa (e : Env) (p : PointId) (a : Alarm) : Alarm :=
  match a.points[p].state, e.config.points[p].sequence with
  | .idle, _ => a.newOccurrence e p .qa
  | .awaitReset, .hold => a.newOccurrence e p .qa
  | .returned, .follow => a.newOccurrence e p .qa
  | _, _ => a.stay e p .qa

/-- QN applied to a point's sequence (R9 to R13, R15). -/
def Alarm.qn (e : Env) (p : PointId) (a : Alarm) : Alarm :=
  match a.points[p].state, e.config.points[p].sequence with
  | .standing, .hold => a.move e p .awaitReset .qn
  | .standing, .follow => a.move e p .idle .qn
  | .standing, .notice => a.move e p .idle .qn
  | .alerting, .follow => a.move e p .returned .qn
  | .suppressed, _ => a.move e p .idle .qn
  | _, _ => a.stay e p .qn

/-- A point's copy of its condition set (R4). -/
def Alarm.setCondition (p : PointId) (abnormal : Bool) (a : Alarm) : Alarm :=
  a.setPoint p { a.points[p] with abnormal := abnormal }

/-- A condition change delivered to the Sequence Engine (R4, R37): the condition field, then for an enabled point the
event, then for a QA on a point that is not SHELVED the chatter count. -/
def Alarm.deliver (e : Env) (p : PointId) (abnormal : Bool) (a : Alarm) : Alarm :=
  let a' := a.setCondition p abnormal
  match a.points[p].state, abnormal with
  | .disabled, _ => a'
  | .shelved, true => a'.qa e p
  | _, true => (a'.qa e p).countQA e p
  | _, false => a'.qn e p

/-! ## Actions (R9, R10, R16, R20 to R24) -/

/-- ACK waits at a point (R15, R20). -/
def Point.pendingAck (d : Point) : Bool := decide (d.state = .alerting) || decide (d.state = .returned)

/-- ACK applied to one point (R9, R10). -/
def Alarm.ack (e : Env) (p : PointId) (a : Alarm) : Alarm :=
  match a.points[p].state, e.config.points[p].sequence with
  | .alerting, .hold => a.move e p (if a.points[p].abnormal then .standing else .awaitReset) .ack
  | .alerting, .follow => a.move e p .standing .ack
  | .returned, .follow => a.move e p .idle .ack
  | _, _ => a

/-- Acknowledge All takes one point of its sweep (R20).  A point that waited when the sweep began is acknowledged; one that
the sweep itself has released since is a free value (log 8). -/
def Alarm.ackSweep (e : Env) (first : Alarm) (x : Alarm × Nat) (p : PointId) : Alarm × Nat :=
  if x.1.points[p].pendingAck && (first.points[p].pendingAck || Config.ackTakesReleased) then (x.1.ack e p, x.2 + 1)
  else x

/-- Acknowledge All: the points in ascending order, and how many were acknowledged (R20). -/
def Alarm.ackAll (e : Env) (a : Alarm) : Alarm × Nat := allPoints.foldl (Alarm.ackSweep e a) (a, 0)

/-- RST applied to one point (R9, R23). -/
def Alarm.rst (e : Env) (p : PointId) (a : Alarm) : Alarm := a.move e p .idle .rst

/-- Reset All: RST to each point in AWAIT_RESET, and how many there were (R23). -/
def Alarm.resetAll (e : Env) (a : Alarm) : Alarm × Nat :=
  allPoints.foldl (fun x p => if x.1.points[p].state = .awaitReset then (x.1.rst e p, x.2 + 1) else x) (a, 0)

/-- A point a Silence action hushes (R22). -/
def Point.audible (d : Point) : Bool := decide (d.state = .alerting) && !d.hushed

/-- Hushed set on one point, and its claim ended (R17, R22). -/
def Alarm.hush (e : Env) (p : PointId) (a : Alarm) : Alarm :=
  (a.setPoint p { a.points[p] with hushed := true }).passClaim e p

/-- Silence: every ALERTING point not hushed is hushed, one SILENCE record carries their number (R22). -/
def Alarm.silence (e : Env) (a : Alarm) : Alarm × Nat :=
  let ps := allPoints.filter fun p => a.points[p].audible
  ((ps.foldl (fun a p => a.hush e p) a).append { kind := .silence, origin := e.origin, detail := some ps.length }, ps.length)

/-- A reminder expires: STANDING to ALERTING with the same occurrence and mark, unhushed, with a new entry stamp, and no
group test (R16, R47). -/
def Alarm.remind (e : Env) (p : PointId) (a : Alarm) : Alarm :=
  a.transition e p { a.moved e p .alerting with entryStamp := a.journal.nextSeq } .remind

/-! ## The entry passes (R60) and warm restart (R28, R61, R77, R101) -/

/-- The entry test run on a set of points in two passes, those without a suppressor first, each in the order given
(R60). -/
def Alarm.passes (e : Env) (cause : Cause) (ps : List PointId) (a : Alarm) : Alarm :=
  let first := ps.filter fun p => e.config.points[p].suppressor.isNone
  let second := ps.filter fun p => e.config.points[p].suppressor.isSome
  (first ++ second).foldl (fun a p => a.newOccurrence e p cause) a

/-- An enabled point set to IDLE by a warm restart, mark and hushed cleared, reminder stopped; a DISABLED point kept
(R28). -/
def Point.warm (d : Point) : Point :=
  if d.state = .disabled then d else { d with state := .idle, mark := false, hushed := false, reminder := none }

/-- The Sounder Controller before the passes of a warm restart: no claims, both channels IDLE (R101). -/
def Sounder.warm (s : Sounder) : Sounder :=
  { s with ch0 := s.ch0.goIdle, ch1 := s.ch1.goIdle, claims1 := [], claims2 := [], claims3 := [] }

/-- Shelf emptied, chatter records cleared, claims and channels cleared, groups armed, enabled points IDLE (R28, R61, R77,
R101). -/
def Alarm.warmClear (a : Alarm) : Alarm :=
  { a with
    points := a.points.map Point.warm
    groups := a.groups.map fun g => { g with armed := true, first := none }
    shelf := []
    chatter := Vector.replicate 96 {}
    lamps := a.points.map fun d => d.warm.pattern
    sounder := a.sounder.warm }

/-- The points whose entry test a warm restart runs: enabled, with condition ABNORMAL (R60). -/
def Alarm.abnormalEnabled (a : Alarm) : List PointId :=
  allPoints.filter fun p => decide (a.points[p].state ≠ .disabled) && a.points[p].abnormal

/-- The channels at the end of a warm restart: TEST on both while test is active, the assignment otherwise (R101). -/
def Sounder.afterWarm (test : Bool) (now : Nat) (s : Sounder) : Sounder :=
  if test then s.startTest now else s.assign now {}

/-- The rebuild of a warm restart, after its START_WARM record (R28, R60, R61, R77, R101). -/
def Alarm.warmRestart (e : Env) (a : Alarm) : Alarm :=
  let e' := { e with origin := .part, defer := true }
  let a' := a.warmClear.passes e' .restart a.abnormalEnabled
  { a' with sounder := a'.sounder.afterWarm e.test a'.journal.elapsed }

end Sys2Proof.Machine
end

