-- ==== Sys2Proof/Machine/Resolver.lean ====
section
/-! DEFINITION. The Input Qualifier and the Condition Resolver (chapter 2), and the relays (R113). -/

namespace Sys2Proof.Machine

/-- What the operations on alarms read of the part (an operation outside commit and warm restart). -/
def Part.env (s : Part) (o : Origin) : Env := ⟨s.active, s.panel.testSet.active, false, o⟩

/-! ## Relays (R113) -/

/-- A point holds a relay on in mode UNACKED (R19, R113). -/
def Point.unacked (d : Point) : Bool := decide (d.state = .alerting) || decide (d.state = .returned)

/-- The state of a relay by its mode and inputs (the table of R113). -/
def Part.relayOn (s : Part) (r : RelayId) : Bool :=
  match s.active.relays[r] with
  | .off => false
  | .unacked => allPoints.any fun p => s.active.points[p].relays.has r && s.alarm.points[p].unacked
  | .active => allPoints.any fun p => s.active.points[p].relays.has r && s.alarm.points[p].state.active
  | .sounding => s.alarm.sounder.ch0.inLevel || s.alarm.sounder.ch1.inLevel

/-- The relays settled at the end of an operation that can change their inputs (R113). -/
def Part.settleRelays (s : Part) : Part := { s with panel := { s.panel with relays := tabulate s.relayOn } }

/-- An operation on alarms carried out for an origin. -/
def Part.act (o : Origin) (f : Env → Alarm → Alarm) (s : Part) : Part := { s with alarm := f (s.env o) s.alarm }

/-! ## Conditions (R36, R37) -/

/-- A point's condition by its source (the table of R36). -/
def Part.conditionOf (s : Part) (p : PointId) : Bool :=
  match s.active.points[p].source with
  | .line n => s.lines[n].abnormal
  | .msg l => s.conditions[p].by l
  | .msgAny => s.conditions[p].byA || s.conditions[p].byB
  | .silent l => decide ((s.link l).state = .silent)

/-- A point's Condition Resolver record replaced. -/
def Part.setConditionRecord (s : Part) (p : PointId) (c : Condition) : Part :=
  { s with conditions := s.conditions.set p c }

/-- A point's condition worked out again; a change is delivered to the Sequence Engine at once (R37). -/
def Part.resolve (o : Origin) (p : PointId) (s : Part) : Part :=
  let now := s.conditionOf p
  if now = s.conditions[p].abnormal then s
  else (s.setConditionRecord p { s.conditions[p] with abnormal := now }).act o (fun e a => a.deliver e p now)

/-- Several points' conditions worked out again, each complete before the next (R37). -/
def Part.resolveAll (o : Origin) (ps : List PointId) (s : Part) : Part := ps.foldl (fun s p => s.resolve o p) s

/-- The points that name a source, in ascending order. -/
def Part.pointsOn (s : Part) (src : Source) : List PointId := allPoints.filter fun p => s.active.points[p].source = src

/-- Link X's assertion on a point set or cleared, and what follows (R37, R40, R41). -/
def Part.assertPoint (l : LinkId) (v : Bool) (p : PointId) (s : Part) : Part :=
  (s.setConditionRecord p (s.conditions[p].setBy l v)).resolve (.link l) p

/-- One entry of a Raise or Clear list: an assertion already so is left as it is (R40, R41). -/
def assertEntry (l : LinkId) (v : Bool) (x : Part × Nat) (p : PointId) : Part × Nat :=
  if x.1.conditions[p].by l = v then x else (x.1.assertPoint l v p, x.2 + 1)

/-- Every assertion of a link dropped, in ascending point order (R43). -/
def Part.dropAssertions (l : LinkId) (s : Part) : Part :=
  allPoints.foldl (fun s p => if s.conditions[p].by l then s.assertPoint l false p else s) s

/-! ## The line scan (R31, R32, R33) -/

/-- A sample classed by the line's polarity (R30, R31). -/
def LineConfig.abnormal (c : LineConfig) (w : Wire) : Bool :=
  match c.polarity, w with
  | .activeLow, .low => true
  | .activeLow, .high => false
  | .activeHigh, .high => true
  | .activeHigh, .low => false

/-- The qualification step of one line at one scan (the table of R32). -/
def Line.scan (w : Wire) (x : Line) : Line :=
  let x' := { x with raw := w }
  if x.config.abnormal w = x.abnormal then { x' with run := 0 }
  else if x.run + 1 = (if x.abnormal then x.config.offCount else x.config.onCount) then
    { x' with abnormal := !x.abnormal, run := 0 }
  else { x' with run := x.run + 1 }

/-- The level of a line in a scan's levels. -/
def wireOf (levels : BitVec 24) (n : LineId) : Wire := if levels.getLsbD n.val then .high else .low

/-- A line put among others by its rank: before the first of a higher rank (log 6). -/
def insertByRank (rank : LineId → Nat) (n : LineId) : List LineId → List LineId
  | [] => [n]
  | m :: rest => if rank m ≤ rank n then m :: insertByRank rank n rest else n :: m :: rest

/-- Lines in the order in which their changes are taken (R33, log 6). -/
def orderByRank (rank : LineId → Nat) (ns : List LineId) : List LineId := ns.foldr (insertByRank rank) []

/-- One change of a line's qualified state delivered: every point that names the line, in ascending order (R33, R37). -/
def Part.lineChanged (s : Part) (n : LineId) : Part := s.resolveAll .line (s.pointsOn (.line n))

/-- The lines whose qualified state differs between two scans. -/
def changedLines (old new : Vector Line 24) : List LineId :=
  allLines.filter fun n => old[n].abnormal ≠ new[n].abnormal

/-- A scan of all 24 lines; the next is due 1 ms later (R31, R32, R33, R127). -/
def Part.scan (levels : BitVec 24) (s : Part) : Part :=
  let lines := tabulate fun n => s.lines[n].scan (wireOf levels n)
  let changed := changedLines s.lines lines
  (orderByRank (Config.lineRank s.free) changed).foldl Part.lineChanged
    { s with lines := lines, scanTimer := some (clockAfter s.alarm.journal.elapsed 1), free := s.free + 1 }

/-- The levels on IN0 to IN23, as presented from outside (log 21). -/
def Part.present (levels : BitVec 24) (s : Part) : Part := { s with inputs := levels }

/-- The line scan is due (R31, R127). -/
def Part.scanDue (s : Part) : Bool := Timer.due s.alarm.journal.elapsed s.scanTimer

end Sys2Proof.Machine
end

