-- ==== Sys2Proof/Machine/Links.lean ====
section
/-! DEFINITION. The Link Controllers (chapter 10): queues and replies, the transmitter, the order of checks, link state
and supervision, and the session's end by its link (R153, R157). -/

namespace Sys2Proof.Machine

/-! ## Replies and the transmitter (R171, R174, R175, R176) -/

/-- Places of the reply queue taken: replies, and the reservation of a frame in execution (R171). -/
def Link.placesTaken (k : Link) : Nat := k.replies.length + (if k.executing.isSome then 1 else 0)

/-- A reply placed in the reply queue (R171). -/
def Link.place (r : Reply) (k : Link) : Link := { k with replies := k.replies ++ [r] }

/-- The execution of a frame ends with its answer: the reservation turns into the reply, and a request whose TAG is not 0
becomes the last-reply cache entry (R171, R175).  The reply stands at the end of the queue, after a BUSY reply placed while
the reservation stood: R171 does not say which of the two comes first, and that order is the model's choice (log 24). -/
def Link.finish (f : Frame) (ans : Answer) (k : Link) : Link :=
  let r : Reply := ⟨f.tag, f.kind, ans⟩
  { k with
    executing := none
    replies := k.replies ++ [r]
    cache := if f.tag = 0 then k.cache else some ⟨f.tag, f.kind, f.crc, r⟩ }

/-- The cached reply to a frame: the same non-zero TAG, KIND and CRC, with REPEAT added (R175). -/
def Link.cachedReply (f : Frame) (k : Link) : Option Reply :=
  match k.cache with
  | none => none
  | some c =>
    if f.tag ≠ 0 ∧ c.tag = f.tag ∧ c.kind = f.kind ∧ c.crc = f.crc then
      some { c.reply with
        answer := { c.reply.answer with flags := { c.reply.answer.flags with repeated := true }, resets := false } }
    else none

/-- The transmitter of a link, where it is free, takes the oldest waiting reply, or else the stream's offer (R176). -/
def Part.transmit (l : LinkId) (s : Part) : Part :=
  let k := s.link l
  match k.sending with
  | some _ => s
  | none =>
    match k.replies with
    | r :: _ => s.setLink l { k with sending := some ⟨r.chars, true, r.answer.resets⟩ }
    | [] =>
      if s.alarm.journal.offers l then
        match s.alarm.journal.report l with
        | some (r, t) =>
          { s with alarm := { s.alarm with journal := s.alarm.journal.setStream l t } }.setLink l
            { k with sending := some ⟨reportChars r t.credits, false, false⟩ }
        | none => s
      else s

/-- Both transmitters choose, as they do at the end of every command (R176, log 9). -/
def Part.serve (s : Part) : Part := (s.transmit .a).transmit .b

/-! ## Executing the oldest waiting frame (R171, R172) -/

/-- A link begins executing only with no frame in execution, not held back, and a reply place free (R171). -/
def Link.mayExecute (k : Link) : Bool :=
  !k.executing.isSome && !k.held && decide (k.placesTaken < Config.replyPlaces)

/-- The frame a link would execute now. -/
def Link.nextFrame (k : Link) : Option Frame := if k.mayExecute then k.waiting.head? else none

/-- The execution of a frame begins: it leaves the receive queue, and a reply place is reserved (R170, R171). -/
def Part.begin (l : LinkId) (f : Frame) (s : Part) : Part :=
  s.setLink l { s.link l with waiting := (s.link l).waiting.tail, executing := some f }

/-- The execution of a frame ends with its answer, and the transmitters choose (R171, R175, R176). -/
def Part.conclude (l : LinkId) (f : Frame) (ans : Answer) (s : Part) : Part :=
  (s.setLink l ((s.link l).finish f ans)).serve

/-- A frame answered from the last-reply cache: its reservation turns into the cached reply (R175). -/
def Part.repeatReply (l : LinkId) (r : Reply) (s : Part) : Part :=
  (s.setLink l { (s.link l).place r with executing := none }).serve

/-- The execution of one link's oldest waiting frame, whose kind is `k` and whose body is in `mine`: from the cache (R175),
or through the order of checks (R172) and then `body`, the owning block's part.  A link with no such frame to execute is
left as it is (log 2).  `body` answers `none` where the execution goes on (Commit, R154). -/
def Part.execute (l : LinkId) (k : RequestKind) (mine : List Byte → Bool)
    (body : LinkId → List Byte → Part → Part × Option Answer) (s : Part) : Part :=
  match (s.link l).nextFrame with
  | none => s
  | some f =>
    if RequestKind.ofCode f.kind = some k ∧ mine f.body = true then
      let s1 := s.begin l f
      match (s1.link l).cachedReply f with
      | some r => s1.repeatReply l r
      | none =>
        if k.lengthOk f.body = false then s1.conclude l f (refuse .length)
        else if (s1.link l).authority.allows k.needs = false then s1.conclude l f (refuse .denied)
        else
          match body l f.body s1 with
          | (s2, some ans) => s2.conclude l f ans
          | (s2, none) => s2.serve
    else s

/-- A request whose execution ends as soon as its block has answered (R172). -/
def Part.request (l : LinkId) (k : RequestKind) (body : LinkId → List Byte → Part → Part × Answer) (s : Part) : Part :=
  s.execute l k (fun _ => true) (fun l b s => ((body l b s).1, some (body l b s).2))

/-- A queued frame whose KIND is not a request kind, answered with UNKNOWN_KIND, or from the cache (R172, R175). -/
def Part.executeUnknown (l : LinkId) (s : Part) : Part :=
  match (s.link l).nextFrame with
  | none => s
  | some f =>
    if RequestKind.ofCode f.kind = none then
      let s1 := s.begin l f
      match (s1.link l).cachedReply f with
      | some r => s1.repeatReply l r
      | none => s1.conclude l f (refuse .unknownKind)
    else s

/-! ## The end of a session (R153, R157, R160) -/

/-- A record appended to the Journal. -/
def Part.append (b : RecordBody) (s : Part) : Part := { s with alarm := s.alarm.append b }

/-- A running commit check abandoned: nothing is applied and the holder's Commit is answered ABANDONED (R157). -/
def Part.abandonCheck (s : Part) : Part :=
  match s.manager.check, s.manager.holder with
  | some _, some h =>
    let s := { s with manager := { s.manager with check := none } }
    match (s.link h).executing with
    | some f => s.setLink h ((s.link h).finish f (refuse .abandoned))
    | none => s
  | _, _ => s

/-- The session ended without the holder's asking: staging dropped, lock freed, SESSION_LOST appended with the origin of
what ended it (R118, R153, R160). -/
def Part.loseSession (o : LinkId) (s : Part) : Part :=
  match s.manager.holder with
  | none => s
  | some _ =>
    { s with manager := { s.manager with holder := none, sessionId := 0, staging := none } }.append
      { kind := .sessionLost, origin := .link o, detail := some s.manager.sessionId }

/-! ## Link state and supervision (R177, R178) -/

/-- The supervision timer started at a link's heartbeat interval, or stopped where that is 0 (R177). -/
def Link.superviseFrom (now : Nat) (k : Link) : Timer :=
  if k.heartbeat = 0 then none else some (clockAfter now (k.heartbeat * 1000))

/-- What an accepted frame does to the link state and the supervision timer (the table of R177). -/
def Part.heard (l : LinkId) (s : Part) : Part :=
  let k := s.link l
  let now := s.alarm.journal.elapsed
  match k.state with
  | .live => s.setLink l { k with supervision := if k.heartbeat = 0 then k.supervision else k.superviseFrom now }
  | .down =>
    (s.setLink l { k with state := .live, supervision := k.superviseFrom now }).append
      { kind := .linkLive, origin := .link l }
  | .silent =>
    let s' := (s.setLink l { k with state := .live, supervision := k.superviseFrom now }).append
      { kind := .linkLive, origin := .link l }
    (s'.resolveAll (.link l) (s'.pointsOn (.silent l))).settleRelays

/-- A LIVE link falls SILENT: LINK_SILENT, credits to 0, a session it holds lost, its silence points ABNORMAL, in this
order (R178). -/
def Part.fallSilent (l : LinkId) (s : Part) : Part :=
  let s1 := (s.setLink l { s.link l with state := .silent, supervision := none }).append
    { kind := .linkSilent, origin := .link l }
  let s2 := { s1 with alarm := { s1.alarm with journal := s1.alarm.journal.zeroCredits l } }
  let s3 := if s2.manager.holder = some l then s2.abandonCheck.loseSession l else s2
  (s3.resolveAll (.link l) (s3.pointsOn (.silent l))).settleRelays

/-! ## Receiving (R165 to R170) -/

/-- An accepted frame joins the receive queue, or is refused with BUSY (R170). -/
def Link.enqueue (f : Frame) (k : Link) : Link :=
  if k.waiting.length < Config.receivePlaces then { k with waiting := k.waiting ++ [f] }
  else
    let k := { k with busyRefusals := cap16 (k.busyRefusals + 1) }
    if k.placesTaken < Config.replyPlaces then k.place ⟨f.tag, f.kind, refuse .busy⟩ else k

/-- The frame in progress abandoned and counted (R166, R167). -/
def Link.abandonFrame (k : Link) : Link :=
  { k with framer := .hunt, gapTimer := none, framingErrors := cap16 (k.framingErrors + 1) }

/-- The framer waits for the next character of its frame (R165, R167). -/
def Link.await (now : Nat) (f : Framer) (k : Link) : Link :=
  { k with framer := f, gapTimer := some (clockAfter now 10) }

/-- The characters between LEN and the CRC read as TAG, KIND and body (R165). -/
def frameOf (taken : List Byte) (crc : BitVec 16) : Frame := ⟨taken.getD 0 0, taken.getD 1 0, taken.drop 2, crc⟩

/-- The CRC a frame from a controller should carry: over LEN, TAG, KIND and the body (R168). -/
def expectedCrc (taken : List Byte) : BitVec 16 := crcOf (BitVec.ofNat 8 taken.length :: taken)

/-- A complete frame checked: discarded and counted, or accepted (R168, R170, R177). -/
def Part.completeFrame (l : LinkId) (taken : List Byte) (crc : BitVec 16) (s : Part) : Part :=
  let s := s.setLink l { s.link l with framer := .hunt, gapTimer := none }
  if expectedCrc taken = crc then
    let s := s.heard l
    s.setLink l ((s.link l).enqueue (frameOf taken crc))
  else s.setLink l { s.link l with crcErrors := cap16 ((s.link l).crcErrors + 1) }

/-- A character taken by the framer as its state directs (the table of R165, R166, R167). -/
def Part.takeCharacter (l : LinkId) (c : RxChar) (s : Part) : Part :=
  let k := s.link l
  let now := s.alarm.journal.elapsed
  match k.framer, c with
  | .hunt, .good b => if b = 0xA5 then s.setLink l (k.await now .length) else s
  | .hunt, .broken => s
  | .length, .good b =>
    if 2 ≤ b.toNat ∧ b.toNat ≤ 242 then s.setLink l (k.await now (.collect b.toNat [])) else s.setLink l k.abandonFrame
  | .length, .broken => s.setLink l k.abandonFrame
  | .collect len taken, .good b =>
    if taken.length + 1 < len then s.setLink l (k.await now (.collect len (taken ++ [b])))
    else s.setLink l (k.await now (.check (taken ++ [b]) none))
  | .collect _ _, .broken => s.setLink l k.abandonFrame
  | .check taken none, .good b => s.setLink l (k.await now (.check taken (some b)))
  | .check taken (some h), .good b => s.completeFrame l taken (h ++ b)
  | .check _ _, .broken => s.setLink l k.abandonFrame

/-- A character received; one that comes more than 10 ms after the last finds the frame abandoned (R165, R167, log 16). -/
def Part.receive (l : LinkId) (c : RxChar) (s : Part) : Part :=
  let k := s.link l
  let late := match k.gapTimer with
    | none => false
    | some d => pastDeadline s.alarm.journal.elapsed d
  (if late then s.setLink l k.abandonFrame else s).takeCharacter l c

end Sys2Proof.Machine
end

