-- ==== Sys2Proof/Machine/PanelUnit.lean ====
section
/-! DEFINITION. The Panel Unit (chapter 6): keys, the test set, lamps. -/

namespace Sys2Proof.Machine

/-! ## The test set (R107) -/

/-- The test set replaced. -/
def Part.setTestSet (s : Part) (t : TestSet) : Part := { s with panel := { s.panel with testSet := t } }

/-- The Sounder Controller told that test is active: both channels start TEST (R96). -/
def Part.soundTest (s : Part) : Part :=
  { s with alarm := { s.alarm with sounder := s.alarm.sounder.startTest s.alarm.journal.elapsed } }

/-- The Sounder Controller told that test is inactive: it evaluates the assignment afresh (R97). -/
def Part.soundLevels (s : Part) : Part :=
  { s with alarm := { s.alarm with sounder := s.alarm.sounder.assign s.alarm.journal.elapsed {} } }

/-- The test set changes to `t` by an event of origin `o`: a change between empty and non-empty appends its record and
is passed to the Sounder Controller (R107). -/
def Part.changeTestSet (o : Origin) (t : TestSet) (s : Part) : Part :=
  let s' := s.setTestSet t
  match s.panel.testSet.active, t.active with
  | false, true => ((s'.append { kind := .testBegin, origin := o }).soundTest).settleRelays
  | true, false => ((s'.append { kind := .testEnd, origin := o }).soundLevels).settleRelays
  | true, true => s'
  | false, false => s'

/-! ## Keys (R103 to R106) -/

/-- One sample of a key line (R103). -/
def KeyQualifier.sample (now : Nat) (w : Wire) (q : KeyQualifier) : KeyQualifier :=
  if w = q.raw then q else { q with raw := w, steady := some (clockAfter now 20) }

/-- A chirp asked for outside the Sequence Engine, and where it was placed (R89). -/
def Part.chirp (s : Part) : Part × ChirpOutcome :=
  let r := s.alarm.sounder.chirp s.alarm.journal.elapsed
  ({ s with alarm := { s.alarm with sounder := r.1 } }, r.2)

/-- The action of an accepted press (R105, R106). -/
def Part.keyAction (k : KeyId) (s : Part) : Part :=
  match k with
  | .ack => (s.act .panel fun e a => (a.ackAll e).1).settleRelays
  | .silence => (s.act .panel fun e a => (a.silence e).1).settleRelays
  | .reset => (s.act .panel fun e a => (a.resetAll e).1).settleRelays
  | .test => s.changeTestSet .panel { s.panel.testSet with key := true }

/-- A qualified press: a locked one does nothing more; an accepted one appends KEY, asks for its chirp and carries out its
action, in this order (R104). -/
def Part.keyPressed (k : KeyId) (s : Part) : Part :=
  if s.active.global.lock k then s
  else
    let s := s.append { kind := .key, origin := .panel, detail := some (keyCode k) }
    let s := if s.active.global.keyChirp then s.chirp.1 else s
    s.keyAction k

/-- A qualified release: TEST's takes KEY out of the test set (R104, R106). -/
def Part.keyReleased (k : KeyId) (s : Part) : Part :=
  match k with
  | .test => if s.panel.testSet.key then s.changeTestSet .panel { s.panel.testSet with key := false } else s
  | .ack => s
  | .silence => s
  | .reset => s

/-- A key's qualifier replaced. -/
def Part.setKey (s : Part) (k : KeyId) (q : KeyQualifier) : Part := { s with panel := s.panel.setKey k q }

/-- A key line is due to be sampled (R103, log 15). -/
def Part.sampleDue (s : Part) (k : KeyId) : Bool := Timer.due s.alarm.journal.elapsed (s.keyLine k).sample

/-- A level presented on a key line, and the sample that reads it where it is due; the next is due 1 ms later (R103,
log 21). -/
def Part.sampleKey (k : KeyId) (w : Wire) (s : Part) : Part :=
  let now := s.alarm.journal.elapsed
  if s.sampleDue k then
    (s.setKeyLine k ⟨w, some (clockAfter now 1)⟩).setKey k ((s.panel.key k).sample now w)
  else s.setKeyLine k { s.keyLine k with level := w }

/-- A key's steady timer has expired (R103). -/
def Part.keySteady (k : KeyId) (s : Part) : Part :=
  let q := { s.panel.key k with steady := none }
  match q.raw, q.pressed with
  | .low, false => (s.setKey k { q with pressed := true }).keyPressed k
  | .high, true => (s.setKey k { q with pressed := false }).keyReleased k
  | .low, true => s.setKey k q
  | .high, false => s.setKey k q

/-! ## Lamps (R110, R111, R112) -/

/-- The phases a pattern is lit in (the table of R111). -/
def Pattern.lit (phase : Nat) : Pattern → Bool
  | .off => false
  | .steady => true
  | .fast => decide (phase % 250 < 125)
  | .slow => decide (phase < 500)
  | .double => decide (phase < 100) || (decide (200 ≤ phase) && decide (phase < 300))

/-- The pattern a lamp shows: STEADY on every lamp while test is active (R110). -/
def Part.shown (s : Part) (p : PointId) : Pattern := if s.panel.testSet.active then .steady else s.alarm.lamps[p]

/-- A refresh: every lamp evaluated against the flash phase, shifted out and latched (R112).  The next is due 10 ms
after this one (log 15). -/
def Part.refreshLamps (s : Part) : Part :=
  { s with
    panel := { s.panel with
      drivers := tabulate fun p => (s.shown p).lit s.panel.flash
      refresh := some (clockAfter s.alarm.journal.elapsed 10) } }

/-- The bits of the lamp chain in the order they were shifted, point 95 first (R112). -/
def Panel.shifted (p : Panel) : List Bool := p.drivers.toList.reverse

end Sys2Proof.Machine
end

