-- ==== Sys2Proof/Machine/Manager.lean ====
section
/-! DEFINITION. The Configuration Manager (chapter 9): staging, the commit check and its apply, restarts and full reset. -/

namespace Sys2Proof.Machine

/-! ## Staging (R147, R149) -/

/-- A link holds the session. -/
def Manager.heldBy (m : Manager) (l : LinkId) : Bool := decide (m.holder = some l)

/-- The staging configuration; the active one stands in where staging is absent, which a holder never meets. -/
def Part.staged (s : Part) : Configuration := s.manager.staging.getD s.active

/-- The staging configuration replaced. -/
def Part.setStaging (s : Part) (c : Configuration) : Part := { s with manager := { s.manager with staging := some c } }

/-- The id after `n`: 1 after 255 (R147). -/
def sessionIdAfter (n : Nat) : Nat := if n < 255 then n + 1 else 1

/-- One record of the staging configuration written, and whether it now differs from the active one (R149). -/
def Part.stage (s : Part) (n : RecordName) (c : Configuration) : Part × Answer :=
  (s.setStaging c, okAnswer (be 1 (yesNo (c.differs s.active n))))

/-- A Stage request's three checks in order (the session, the record's name, the fields), then the write (R149, R187).
`fields` are the record's fields with the position of the first; `write` gives the new staging configuration. -/
def Part.stageRecord (l : LinkId) (s : Part) (name : Except Answer RecordName) (position : Nat)
    (fields : RecordName → List (Nat × Bool)) (write : RecordName → Configuration → Configuration) : Part × Answer :=
  if s.manager.heldBy l = false then (s, refuse .noSession)
  else
    match name with
    | .error e => (s, e)
    | .ok n =>
      match firstBad position (fields n) with
      | some (i, v) => (s, refuseRange i v)
      | none => s.stage n (write n s.staged)

/-! ## The commit check (R155) -/

/-- The enabled points a line feeds (C1). -/
def Configuration.fedBy (c : Configuration) (n : LineId) : List PointId :=
  allPoints.filter fun p => c.points[p].enabled && decide (c.points[p].source = .line n)

/-- C1: no field line is the source of more than one enabled point. -/
def Configuration.c1 (c : Configuration) : Option LineId := allLines.find? fun n => 1 < (c.fedBy n).length

/-- A point's suppressor breaks C2. -/
def Configuration.badSuppressor (c : Configuration) (p : PointId) : Bool :=
  match c.points[p].suppressor with
  | none => false
  | some q => decide (q = p) || c.points[q].suppressor.isSome || (c.points[p].enabled && !c.points[q].enabled)

/-- C2: no suppressor is its own point, has a suppressor, or is disabled under an enabled point. -/
def Configuration.c2 (c : Configuration) : Option PointId := allPoints.find? c.badSuppressor

/-- The members of a group, in ascending order (R46). -/
def Configuration.membersOf (c : Configuration) (g : GroupId) : List PointId :=
  allPoints.filter fun p => c.points[p].group = some g

/-- A point breaks C3: a NOTICE member, or the seventeenth member of its group (log 20). -/
def Configuration.badMember (c : Configuration) (p : PointId) : Bool :=
  match c.points[p].group with
  | none => false
  | some g => decide (c.points[p].sequence = .notice) || decide ((c.membersOf g)[16]? = some p)

/-- C3: group members are HOLD or FOLLOW, at most 16 in a group. -/
def Configuration.c3 (c : Configuration) : Option PointId := allPoints.find? c.badMember

/-- C4: NOTICE points have no reminder. -/
def Configuration.c4 (c : Configuration) : Option PointId :=
  allPoints.find? fun p => decide (c.points[p].sequence = .notice) && decide (c.points[p].reminderMinutes ≠ 0)

/-- C5: the holder's link keeps CONFIGURE. -/
def Configuration.c5 (c : Configuration) (holder : LinkId) : Bool := decide ((c.link holder).authority = .configure)

/-- The commit check: C1 to C5 in order, stopping at the first that fails (R155). -/
def Configuration.check (c : Configuration) (holder : LinkId) : CheckResult :=
  match c.c1 with
  | some n => .failed 1 n.val
  | none =>
    match c.c2 with
    | some p => .failed 2 p.val
    | none =>
      match c.c3 with
      | some p => .failed 3 p.val
      | none =>
        match c.c4 with
        | some p => .failed 4 p.val
        | none => if c.c5 holder then .passed else .failed 5 255

/-! ## Commit apply: the links, the lines and the conditions (R35, R44, R159, R179) -/

/-- A Link Controller takes its link record (R159, R179). -/
def Link.applyRecord (now : Nat) (c : LinkConfig) (k : Link) : Link :=
  let k' := { k with authority := c.authority, heartbeat := c.heartbeat }
  match k.state with
  | .live => if c.heartbeat = k.heartbeat then k' else { k' with supervision := k'.superviseFrom now }
  | .down => k'
  | .silent => k'

/-- A line takes its record; a changed one clears the run counter (R35). -/
def Line.applyRecord (c : LineConfig) (x : Line) : Line :=
  if c = x.config then x else { x with config := c, run := 0 }

/-- The assertions a source reads (R36). -/
def Source.reads : Source → LinkId → Bool
  | .msg .a, .a => true
  | .msg .b, .b => true
  | .msgAny, _ => true
  | .msg .a, .b => false
  | .msg .b, .a => false
  | .line _, _ => false
  | .silent _, _ => false

/-- Assertions a source does not read, cleared (R44). -/
def Condition.keepRead (src : Source) (c : Condition) : Condition :=
  { c with byA := c.byA && src.reads .a, byB := c.byB && src.reads .b }

/-- A point's condition brought into line with a changed source; the Sequence Engine's copy is set, no event is delivered
(R44).  The new configuration is already the active one. -/
def Part.applySource (old : Configuration) (s : Part) (p : PointId) : Part :=
  if s.active.points[p].source = old.points[p].source then s
  else
    let s1 := s.setConditionRecord p (s.conditions[p].keepRead s.active.points[p].source)
    let v := s1.conditionOf p
    let s2 := s1.setConditionRecord p { s1.conditions[p] with abnormal := v }
    { s2 with alarm := s2.alarm.setCondition p v }

/-! ## Commit apply: the Sequence Engine and the Shelf Unit (R27, R57 to R60, R76) -/

/-- A point the apply disables (R27 step 1). -/
def disabledBy (old new : Configuration) (p : PointId) : Bool := old.points[p].enabled && !new.points[p].enabled

/-- A point the apply newly enables, or whose source or sequence changes while it stays enabled (R27 step 2). -/
def resetBy (old new : Configuration) (p : PointId) : Bool :=
  new.points[p].enabled &&
    (!old.points[p].enabled || decide (old.points[p].source ≠ new.points[p].source)
      || decide (old.points[p].sequence ≠ new.points[p].sequence))

/-- A point's dynamic record after a commit disables or resets it: mark lost at once (R57), hushed cleared, reminder
stopped. -/
def Point.cleared (to_ : PointState) (d : Point) : Point :=
  { d with state := to_, mark := false, hushed := false, reminder := none }

/-- Step 1 for one point: its shelf entry is removed without an unshelve event, its chatter record cleared, and it goes to
DISABLED (R27, R76). -/
def Alarm.applyDisable (e : Env) (a : Alarm) (p : PointId) : Alarm :=
  ((a.removeEntry p).setChatter p {}).transition e p (a.points[p].cleared .disabled) .commit

/-- Step 2 for one point: reset to IDLE, chatter record cleared (R27, R76). -/
def Alarm.applyReset (e : Env) (a : Alarm) (p : PointId) : Alarm :=
  (a.setChatter p {}).transition e p (a.points[p].cleared .idle) .commit

/-- A point's first-out mark lost without a change of state (R49, R58). -/
def Alarm.loseMark (a : Alarm) (p : PointId) : Alarm := a.setPoint p { a.points[p] with mark := false }

/-- A group's membership differs between two configurations (R58). -/
def membershipChanged (old new : Configuration) (g : GroupId) : Bool :=
  allPoints.any fun p => decide (old.points[p].group = some g) != decide (new.points[p].group = some g)

/-- A point loses its mark in the recomputation: its group field changed, or it is a member of a group whose membership
changed (R58). -/
def markLostBy (old new : Configuration) (p : PointId) : Bool :=
  decide (old.points[p].group ≠ new.points[p].group) ||
    (match new.points[p].group with
      | none => false
      | some g => membershipChanged old new g)

/-- A group record examined after steps 1 and 2 (R57, R58). -/
def Alarm.recomputeGroup (old new : Configuration) (a : Alarm) (g : GroupId) : Alarm :=
  let r := { a.groups[g] with members := (new.membersOf g).length }
  let r' : Group :=
    if a.groupActive new g = false then { r with armed := true, first := none }
    else if membershipChanged old new g then { r with armed := false, first := none }
    else r
  { a with groups := a.groups.set g r' }

/-- The SUPPRESSED points whose new suppressor is none or not in an active state (R59). -/
def Alarm.freed (new : Configuration) (a : Alarm) : List PointId :=
  allPoints.filter fun p => decide (a.points[p].state = .suppressed) && !a.suppressorActive new p

/-- A reminder change on a point that keeps its state (R27). -/
def Alarm.applyReminder (e : Env) (old : Configuration) (a : Alarm) (p : PointId) : Alarm :=
  let was := old.points[p].reminderMinutes
  let now_ := e.config.points[p].reminderMinutes
  let d := a.points[p]
  if was = now_ then a
  else
    match d.reminder with
    | some _ =>
      a.setPoint p { d with
        reminder := if now_ = 0 then none else some (clockAfter a.journal.elapsed (now_ * 60000)) }
    | none =>
      if was = 0 ∧ d.state = .standing then a.setPoint p { d with reminder := a.reminderStart e p } else a

/-- A chatter limit change clears the point's chatter record (R76). -/
def Alarm.applyChatter (old new : Configuration) (a : Alarm) (p : PointId) : Alarm :=
  if old.points[p].chatterLimit = new.points[p].chatterLimit then a else a.setChatter p {}

/-- The Sequence Engine's and the Shelf Unit's part of a commit apply (R27): claims of kept points move to their new
priority (log 18), then steps 1 to 4, then the reminders of the points that keep their state.  Steps 1 and 2 each take
their points, and so append their COMMIT records, in ascending point order: R27 and R57 give none, and that order is the
model's choice (log 18). -/
def Alarm.apply (e : Env) (old : Configuration) (a : Alarm) : Alarm :=
  let new := e.config
  let a0 := allPoints.foldl (fun a p => (a.passClaim e p).applyChatter old new p) a
  let a1 := (allPoints.filter (disabledBy old new)).foldl (Alarm.applyDisable e) a0
  let reset_ := allPoints.filter fun p => resetBy old new p && decide (a1.points[p].state ≠ .shelved)
  let a2 := reset_.foldl (Alarm.applyReset e) a1
  let a3 := (allPoints.filter (markLostBy old new)).foldl Alarm.loseMark a2
  let a4 := allGroups.foldl (Alarm.recomputeGroup old new) a3
  let a5 := a4.release e (a4.freed new)
  let a6 := a5.passes e .commit (reset_.filter fun p => a5.points[p].abnormal)
  allPoints.foldl (Alarm.applyReminder e old) a6

/-! ## Commit apply as one operation (R99, R100, R115, R158) -/

/-- The levels whose profile an apply changed (R99). -/
def changedLevels (old new : ToneSet) : LevelSet :=
  ⟨decide (old.level1 ≠ new.level1), decide (old.level2 ≠ new.level2), decide (old.level3 ≠ new.level3)⟩

/-- The Panel Unit's part: an apply that locks TEST takes KEY out of the test set (R115). -/
def Part.applyLock (s : Part) : Part :=
  if s.active.global.lockTest && s.panel.testSet.key then s.changeTestSet .part { s.panel.testSet with key := false } else s

/-- The staging made active: COMMIT appended, then each block takes its records in the order of R158's table, the Sounder
Controller evaluates once and the relays are settled once (R44, R100, R115, R158). -/
def Part.applyCommit (new : Configuration) (holder : LinkId) (s : Part) : Part :=
  let old := s.active
  let now := s.alarm.journal.elapsed
  let s1 := { s with active := new, manager := { s.manager with mode := .running } }.append
    { kind := .commit, origin := .link holder, detail := some (s.manager.sessionId * 256 + old.countPointsChanged new) }
  let s2 := { s1 with
    linkA := s1.linkA.applyRecord now new.linkA
    linkB := s1.linkB.applyRecord now new.linkB
    lines := tabulate fun n => s1.lines[n].applyRecord new.lines[n]
    alarm := { s1.alarm with sounder := { s1.alarm.sounder with tones := new.tones, dual := new.global.dual } } }
  let s3 := allPoints.foldl (Part.applySource old) s2
  let s4 := { s3 with alarm := s3.alarm.apply ⟨new, s3.panel.testSet.active, true, .part⟩ old }
  let s5 := { s4 with
    alarm := { s4.alarm with
      sounder := s4.alarm.sounder.evaluate s4.panel.testSet.active now (changedLevels old.tones new.tones) } }
  s5.applyLock.settleRelays

/-- What a completed check answers: CHECK_FAILED with nothing changed (R156), or OK once the commit is applied (R158). -/
def Part.concludeCheck (holder : LinkId) (s : Part) : Part × Answer :=
  let new := s.staged
  match new.check holder with
  | .failed code item => (s, refuse .checkFailed (be 1 code ++ be 1 item))
  | .passed =>
    (s.applyCommit new holder,
      okAnswer (be 1 s.manager.sessionId ++ be 1 (s.active.countPointsChanged new) ++ be 4 s.alarm.journal.nextSeq))

/-- The completion timer has expired: the check ends, the commit fails or is applied, and the reply takes its reserved
place (R154, R156, R158, R171). -/
def Part.completeCheck (s : Part) : Part :=
  match s.manager.holder with
  | none => { s with manager := { s.manager with check := none } }
  | some h =>
    let s := { s with manager := { s.manager with check := none } }
    let r := s.concludeCheck h
    match (r.1.link h).executing with
    | some f => r.1.setLink h ((r.1.link h).finish f r.2)
    | none => r.1

/-! ## Restart and full reset (R160 to R164) -/

/-- The session step of a Restart: a running check abandoned, a held session lost (R160). -/
def Part.endForRestart (l : LinkId) (s : Part) : Part := s.abandonCheck.loseSession l

/-- A warm restart: START_WARM, the rebuild, and the relays settled once (R161). -/
def Part.warm (l : LinkId) (s : Part) : Part :=
  let s := s.append { kind := .startWarm, origin := .link l }
  (s.act .part Alarm.warmRestart).settleRelays

/-- The baud rate the straps choose (R164). -/
def baudOf (p : Straps) : Baud :=
  match p.baud1, p.baud0 with
  | .low, .low => .b19200
  | .low, .high => .b57600
  | .high, .low => .b115200
  | .high, .high => .b230400

/-- A full reset with its strap levels: every block at its defaults and START_COLD as record 1 (R29, R130, R163).  The
levels on the field lines and the key lines are the outside's, and the model's own counter runs on. -/
def Part.fullReset (p : Straps) (s : Part) : Part :=
  { Part.reset with baud := baudOf p, inputs := s.inputs, keyLines := s.keyLines.restarted, free := s.free }

end Sys2Proof.Machine
end

