-- ==== Sys2Proof/Machine/LinkFamily.lean ====
section
/-! DEFINITION. Meanings: Hello, Ping, Read Link Status, a frame of unknown kind; characters, gaps, silence, the
transmitter's end, full reset (chapters 9, 10). -/

namespace Sys2Proof.Machine

/-- An operation on the part as the meaning of a command: it completes, and the queue is left alone. -/
def State.run (f : Part → Part) (s : State) : Host.Outcome State Fault Refusal :=
  .next { s with toPart := f s.toPart }

/-! ## Hello (R181, R182) -/

/-- The effects of a new epoch, in the order of R182. -/
def Part.newEpoch (l : LinkId) (epoch : Nat) (s : Part) : Part :=
  let s1 := s.append { kind := .epoch, origin := .link l, detail := some epoch }
  let s2 := s1.setLink l { s1.link l with epoch := epoch, cache := none }
  let s3 := { s2 with alarm := { s2.alarm with journal := s2.alarm.journal.endStream l } }
  let s4 := if s3.manager.heldBy l then s3.loseSession l else s3
  (s4.dropAssertions l).settleRelays

/-- The reply data of Hello (R181); `stored` is the epoch stored when the request was taken. -/
def Part.helloData (l : LinkId) (stored : Nat) (s : Part) : List Byte :=
  Config.identity ++ be 1 (linkCode l) ++ be 1 (s.link l).authority.code ++ be 1 s.manager.mode.code
    ++ be 4 s.alarm.journal.newest ++ be 2 stored

/-- Hello: version check, epoch comparison, identity (R181). -/
def helloBody (l : LinkId) (b : List Byte) (s : Part) : Part × Answer :=
  let stored := (s.link l).epoch
  let epoch := field b 1 2
  if field b 0 1 ≠ 1 then (s, refuse .version Config.identity)
  else
    let s' := if epoch = stored then s else s.newEpoch l epoch
    (s', okAnswer (s'.helloData l stored))

/-- HELLO (R181). -/
def execHello (l : LinkId) (s : State) : Host.Outcome State Fault Refusal := s.run (·.request l .hello helloBody)

/-! ## Ping (R183) -/

/-- Ping: OK, and nothing else. -/
def pingBody (_ : LinkId) (_ : List Byte) (s : Part) : Part × Answer := (s, okAnswer [])

/-- PING (R183). -/
def execPing (l : LinkId) (s : State) : Host.Outcome State Fault Refusal := s.run (·.request l .ping pingBody)

/-! ## Read Link Status (R184) -/

/-- The 14 characters of a link's status (11.8).  A reservation is not counted as a waiting reply; a reply being sent
still is (log 10). -/
def Link.statusData (now : Nat) (k : Link) : List Byte :=
  be 1 k.state.code ++ be 2 k.epoch ++ be 1 k.authority.code ++ be 1 k.heartbeat
    ++ be 1 (secondsUp (Timer.remaining now k.supervision)) ++ be 1 k.waiting.length ++ be 1 k.replies.length
    ++ be 2 k.framingErrors ++ be 2 k.crcErrors ++ be 2 k.busyRefusals

/-- A link's three error counters set to 0 (R184). -/
def Link.clearCounters (k : Link) : Link := { k with framingErrors := 0, crcErrors := 0, busyRefusals := 0 }

/-- Read Link Status: the named link's status, and its counters cleared if asked (R184). -/
def readLinkStatusBody (_ : LinkId) (b : List Byte) (s : Part) : Part × Answer :=
  match link? (field b 0 1) with
  | none => (s, refuseRange 1 (field b 0 1))
  | some n =>
    if within 0 1 (field b 1 1) = false then (s, refuseRange 2 (field b 1 1))
    else
      let ans := okAnswer ((s.link n).statusData s.alarm.journal.elapsed)
      (if field b 1 1 = 1 then s.setLink n (s.link n).clearCounters else s, ans)

/-- READ_LINK_STATUS (R184). -/
def execReadLinkStatus (l : LinkId) (s : State) : Host.Outcome State Fault Refusal :=
  s.run (·.request l .readLinkStatus readLinkStatusBody)

/-! ## A frame of unknown kind (R172) -/

/-- UNKNOWN_KIND (R172). -/
def execUnknownKind (l : LinkId) (s : State) : Host.Outcome State Fault Refusal := s.run (·.executeUnknown l)

/-! ## Events on the links -/

/-- RECEIVE_CHARACTER (R165 to R168, R170, R177). -/
def execReceiveCharacter (l : LinkId) (c : RxChar) (s : State) : Host.Outcome State Fault Refusal :=
  s.run fun p => (p.receive l c).serve

/-- The intra-frame gap timer's expiry (R167). -/
def Part.gapExpired (l : LinkId) (s : Part) : Part :=
  if Timer.due s.alarm.journal.elapsed (s.link l).gapTimer then s.setLink l (s.link l).abandonFrame else s

/-- A command that is a character of a link. -/
def characterOf (l : LinkId) : Instr → Bool
  | .receiveCharacter m _ => decide (m = l)
  | _ => false

/-- A character of a link has arrived at the present count and waits in the queue: time does not pass while a command
waits (log 16). -/
def State.characterWaits (l : LinkId) (s : State) : Bool := s.pending.any (characterOf l)

/-- INTRA_FRAME_GAP_EXPIRY (R167); a timer that is not due does not expire (log 2), and a character that arrives at the
count of the expiry is taken before it (log 16). -/
def execIntraFrameGapExpiry (l : LinkId) (s : State) : Host.Outcome State Fault Refusal :=
  if s.characterWaits l then .next s else s.run (·.gapExpired l)

/-- A link's supervision is due: LIVE, with its timer run out (R178). -/
def Part.silenceDue (l : LinkId) (s : Part) : Bool :=
  decide ((s.link l).state = .live) && Timer.due s.alarm.journal.elapsed (s.link l).supervision

/-- The supervision timer's expiry (R178). -/
def Part.supervisionExpired (l : LinkId) (s : Part) : Part := if s.silenceDue l then (s.fallSilent l).serve else s

/-- SUPERVISION_EXPIRY (R178); a timer that is not due does not expire (log 2). -/
def execSupervisionExpiry (l : LinkId) (s : State) : Host.Outcome State Fault Refusal := s.run (·.supervisionExpired l)

/-- The last character of a frame has left: the full reset a Restart COLD reply brings, or the place freed and the next
frame chosen (R162, R171, R176). -/
def Part.transmitted (l : LinkId) (p : Straps) (s : Part) : Part :=
  let k := s.link l
  match k.sending with
  | none => s
  | some t =>
    if t.resets then s.fullReset p
    else (s.setLink l { k with sending := none, replies := if t.isReply then k.replies.tail else k.replies }).serve

/-- TRANSMIT_COMPLETE (R162, R176); a free transmitter finishes nothing (log 2). -/
def execTransmitComplete (l : LinkId) (p : Straps) (s : State) : Host.Outcome State Fault Refusal :=
  s.run (·.transmitted l p)

/-- FULL_RESET (R163). -/
def execFullReset (p : Straps) (s : State) : Host.Outcome State Fault Refusal := s.run (·.fullReset p)

end Sys2Proof.Machine
end

