-- ==== Sys2Proof/Machine/PointFamily.lean ====
section
/-! DEFINITION. Meanings: the point table, the lines and the groups (chapters 1, 2, 3). -/

namespace Sys2Proof.Machine

/-! ## Reading (R25, R26, R34, R51) -/

/-- A point status record's 12 characters (R25, 11.8). -/
def Part.pointStatus (s : Part) (p : PointId) : List Byte :=
  let c := s.active.points[p]
  let d := s.alarm.points[p]
  be 1 p.val ++ be 1 d.state.code
    ++ be 1 (pointFlags d.abnormal c.enabled d.mark d.hushed (claimOf c d).isSome)
    ++ be 1 (c.sequence.code * 16 + c.priority.code)
    ++ be 2 d.occurrence ++ be 4 d.entryStamp
    ++ be 2 (secondsUp (Timer.remaining s.alarm.journal.elapsed d.reminder))

/-- Read Point: 1 to 16 consecutive points (R25, R187). -/
def readPointBody (_ : LinkId) (b : List Byte) (s : Part) : Part × Answer :=
  let first := field b 0 1
  let count := field b 1 1
  if within 0 95 first = false then (s, refuseRange 1 first)
  else if within 1 16 count = false then (s, refuseRange 2 count)
  else if 95 < first + count - 1 then (s, refuseRange 2 count)
  else
    (s, okAnswer (be 1 count
      ++ (allPoints.filter fun p => first ≤ p.val ∧ p.val < first + count).flatMap s.pointStatus))

/-- READ_POINT (R25). -/
def execReadPoint (l : LinkId) (s : State) : Host.Outcome State Fault Refusal :=
  s.run (·.request l .readPoint readPointBody)

/-- The point states in the order of their codes. -/
def allStates : List PointState :=
  [.disabled, .idle, .alerting, .standing, .returned, .awaitReset, .suppressed, .shelved]

/-- The number of points in a state (R26). -/
def Alarm.countIn (a : Alarm) (t : PointState) : Nat := (allPoints.filter fun p => a.points[p].state = t).length

/-- The levels that hold a claim, worked out by R18 from the point table (R26). -/
def Part.claimedLevels (s : Part) : LevelSet :=
  let at_ (l : Level) := allPoints.any fun p => decide (claimOf s.active.points[p] s.alarm.points[p] = some l)
  ⟨at_ .low, at_ .high, at_ .urgent⟩

/-- Read Summary's 14 characters (R26, 11.8). -/
def readSummaryBody (_ : LinkId) (_ : List Byte) (s : Part) : Part × Answer :=
  (s, okAnswer (be 1 s.manager.mode.code ++ allStates.flatMap (fun t => be 1 (s.alarm.countIn t))
    ++ be 1 s.claimedLevels.code ++ be 4 s.alarm.journal.newest))

/-- READ_SUMMARY (R26). -/
def execReadSummary (l : LinkId) (s : State) : Host.Outcome State Fault Refusal :=
  s.run (·.request l .readSummary readSummaryBody)

/-- Read Lines' 48 characters (R34, 11.8). -/
def readLinesBody (_ : LinkId) (_ : List Byte) (s : Part) : Part × Answer :=
  (s, okAnswer (allLines.flatMap fun n =>
    be 1 (lineFlags s.lines[n].raw s.lines[n].abnormal) ++ be 1 s.lines[n].run))

/-- READ_LINES (R34). -/
def execReadLines (l : LinkId) (s : State) : Host.Outcome State Fault Refusal :=
  s.run (·.request l .readLines readLinesBody)

/-- The members of a group now in an active state (R51). -/
def Part.activeMembers (s : Part) (g : GroupId) : Nat :=
  ((s.active.membersOf g).filter fun p => s.alarm.points[p].state.active).length

/-- Read Groups' 32 characters (R51, 11.8). -/
def readGroupsBody (_ : LinkId) (_ : List Byte) (s : Part) : Part × Answer :=
  (s, okAnswer (allGroups.flatMap fun g =>
    be 1 (yesNo s.alarm.groups[g].armed) ++ be 1 (orNone s.alarm.groups[g].first) ++ be 1 s.alarm.groups[g].members
      ++ be 1 (s.activeMembers g)))

/-- READ_GROUPS (R51). -/
def execReadGroups (l : LinkId) (s : State) : Host.Outcome State Fault Refusal :=
  s.run (·.request l .readGroups readGroupsBody)

/-! ## Raise and Clear (R39, R40, R41) -/

/-- A point's source reads a link's own assertions (R39). -/
def Part.sourceOpen (s : Part) (l : LinkId) (p : PointId) : Bool :=
  decide (s.active.points[p].source = .msgAny) || decide (s.active.points[p].source = .msg l)

/-- The entries of a Raise or Clear list checked in list order from position `n` on: the points, or the first entry's
refusal (R39, R187). -/
def Part.checkList (s : Part) (l : LinkId) (n : Nat) : List Byte → Except Answer (List PointId)
  | [] => .ok []
  | b :: rest =>
    match point? b.toNat with
    | none => .error (refuseRange n b.toNat)
    | some p =>
      if s.sourceOpen l p then
        match s.checkList l (n + 1) rest with
        | .ok ps => .ok (p :: ps)
        | .error e => .error e
      else .error (refuse .wrongSource (be 1 p.val))

/-- A list of assertions set or cleared, and the number that changed (R40, R41). -/
def Part.assertAll (l : LinkId) (v : Bool) (ps : List PointId) (s : Part) : Part × Nat := ps.foldl (assertEntry l v) (s, 0)

/-- Raise (`v` true) or Clear (`v` false): the whole list checked, then taken in list order (R39, R40, R41). -/
def assertBody (v : Bool) (l : LinkId) (b : List Byte) (s : Part) : Part × Answer :=
  match s.checkList l 1 b with
  | .error e => (s, e)
  | .ok ps =>
    let r := s.assertAll l v ps
    (r.1.settleRelays, okAnswer (be 1 r.2))

/-- RAISE (R40). -/
def execRaise (l : LinkId) (s : State) : Host.Outcome State Fault Refusal := s.run (·.request l .raise (assertBody true))

/-- CLEAR (R41). -/
def execClear (l : LinkId) (s : State) : Host.Outcome State Fault Refusal := s.run (·.request l .clear (assertBody false))

/-! ## Acknowledge, Silence, Reset (R20 to R24) -/

/-- A panel-wide action for a link: its count in the reply (R20, R22, R23). -/
def actionBody (f : Env → Alarm → Alarm × Nat) (l : LinkId) (_ : List Byte) (s : Part) : Part × Answer :=
  let r := f (s.env (.link l)) s.alarm
  ({ s with alarm := r.1 }.settleRelays, okAnswer (be 1 r.2))

/-- ACKNOWLEDGE_ALL (R20). -/
def execAcknowledgeAll (l : LinkId) (s : State) : Host.Outcome State Fault Refusal :=
  s.run (·.request l .acknowledgeAll (actionBody Alarm.ackAll))

/-- SILENCE (R22). -/
def execSilence (l : LinkId) (s : State) : Host.Outcome State Fault Refusal :=
  s.run (·.request l .silence (actionBody Alarm.silence))

/-- RESET_ALL (R23). -/
def execResetAll (l : LinkId) (s : State) : Host.Outcome State Fault Refusal :=
  s.run (·.request l .resetAll (actionBody Alarm.resetAll))

/-- A point's state and occurrence number, as the replies that name one point carry them (11.4). -/
def Part.stateData (s : Part) (p : PointId) : List Byte :=
  be 1 s.alarm.points[p].state.code ++ be 2 s.alarm.points[p].occurrence

/-- A request on one point: what it does to the alarms, and the point's state and occurrence after it (11.4). -/
def Part.onPoint (l : LinkId) (p : PointId) (f : Env → Alarm → Alarm) (s : Part) : Part × Answer :=
  let s' := (s.act (.link l) f).settleRelays
  (s', okAnswer (s'.stateData p))

/-- Acknowledge Point: RANGE, NOTHING_PENDING, STALE, or the ACK (R21). -/
def acknowledgePointBody (l : LinkId) (b : List Byte) (s : Part) : Part × Answer :=
  match point? (field b 0 1) with
  | none => (s, refuseRange 1 (field b 0 1))
  | some p =>
    if s.alarm.points[p].pendingAck = false then (s, refuse .nothingPending)
    else if field b 1 2 ≠ 0 ∧ field b 1 2 ≠ s.alarm.points[p].occurrence then (s, refuse .stale (s.stateData p))
    else s.onPoint l p (fun e a => a.ack e p)

/-- ACKNOWLEDGE_POINT (R21). -/
def execAcknowledgePoint (l : LinkId) (s : State) : Host.Outcome State Fault Refusal :=
  s.run (·.request l .acknowledgePoint acknowledgePointBody)

/-- Reset Point: RANGE, NOTHING_PENDING, or the RST (R24). -/
def resetPointBody (l : LinkId) (b : List Byte) (s : Part) : Part × Answer :=
  match point? (field b 0 1) with
  | none => (s, refuseRange 1 (field b 0 1))
  | some p =>
    if s.alarm.points[p].state ≠ .awaitReset then (s, refuse .nothingPending)
    else s.onPoint l p (fun e a => a.rst e p)

/-- RESET_POINT (R24). -/
def execResetPoint (l : LinkId) (s : State) : Host.Outcome State Fault Refusal :=
  s.run (·.request l .resetPoint resetPointBody)

/-! ## Events -/

/-- The levels presented, and the scan that reads them where it is due (R31, R127, log 21). -/
def Part.scanLines (levels : BitVec 24) (s : Part) : Part :=
  if s.scanDue then (((s.present levels).scan levels).settleRelays).serve else s.present levels

/-- LINE_SCAN (R31, R32, R33); a scan that is not due is not made, and its levels stand at the lines (log 21). -/
def execLineScan (levels : BitVec 24) (s : State) : Host.Outcome State Fault Refusal := s.run (·.scanLines levels)

/-- A point's reminder is due: STANDING, with its timer run out (R16). -/
def Part.reminderDue (p : PointId) (s : Part) : Bool :=
  decide (s.alarm.points[p].state = .standing) && Timer.due s.alarm.journal.elapsed s.alarm.points[p].reminder

/-- A reminder timer's expiry (R16). -/
def Part.reminderExpired (p : PointId) (s : Part) : Part :=
  if s.reminderDue p then ((s.act .timer fun e a => a.remind e p).settleRelays).serve else s

/-- REMINDER_EXPIRY (R16); a timer that is not due does not expire (log 2). -/
def execReminderExpiry (point : Nat) (s : State) : Host.Outcome State Fault Refusal :=
  match point? point with
  | some p => s.run (·.reminderExpired p)
  | none => .fault .noSuchPoint

end Sys2Proof.Machine
end

