-- ==== Sys2Proof/Machine/ShelfFamily.lean ====
section
/-! DEFINITION. Meanings: the shelf table and the chatter windows (chapter 4). -/

namespace Sys2Proof.Machine

/-! ## Read Shelf (R75) -/

/-- The remaining time of a shelving as a reply gives it: whole seconds, rounded up, and at least 1, also where the expiry
is reached and not yet taken (R63, R69, R75, log 23). -/
def shelfSeconds (now expiry : Nat) : Nat :=
  let v := secondsUp (timeLeft now expiry)
  if v = 0 then 1 else v

/-- A shelf entry's 8 characters (11.8). -/
def ShelfEntry.chars (now : Nat) (n : ShelfEntry) : List Byte :=
  be 1 n.point.val ++ be 1 n.origin.code ++ be 2 n.minutes ++ be 4 (shelfSeconds now n.expiry)

/-- Read Shelf: the entries in table order (R75). -/
def readShelfBody (_ : LinkId) (_ : List Byte) (s : Part) : Part × Answer :=
  (s, okAnswer (be 1 s.alarm.shelf.length ++ s.alarm.shelf.flatMap (ShelfEntry.chars s.alarm.journal.elapsed)))

/-- READ_SHELF (R75). -/
def execReadShelf (l : LinkId) (s : State) : Host.Outcome State Fault Refusal :=
  s.run (·.request l .readShelf readShelfBody)

/-! ## Shelving and unshelving (R64 to R67) -/

/-- The reply data of Shelve Point (11.4). -/
def Part.shelveData (s : Part) (p : PointId) (expiry : Nat) : List Byte :=
  be 1 p.val ++ be 4 (shelfSeconds s.alarm.journal.elapsed expiry) ++ be 1 s.alarm.shelf.length

/-- Shelve Point: the checks of R64 in order, then a new entry, or the replacement of R65, or SHELF_FULL (R66). -/
def shelvePointBody (l : LinkId) (b : List Byte) (s : Part) : Part × Answer :=
  let minutes := field b 1 2
  match point? (field b 0 1) with
  | none => (s, refuseRange 1 (field b 0 1))
  | some p =>
    if within 1 1440 minutes = false then (s, refuseRange 2 minutes)
    else
      let n := s.alarm.newEntry p (.link l) minutes
      match s.alarm.points[p].state with
      | .disabled => (s, refuse .notEnabled)
      | .shelved =>
        let s' := { s with alarm := s.alarm.placeEntry n }
        (s', { status := .ok, flags := { extended := true }, data := s'.shelveData p n.expiry })
      | .idle | .alerting | .standing | .returned | .awaitReset | .suppressed =>
        if Config.shelfSize ≤ s.alarm.shelf.length then (s, refuse .shelfFull (be 1 p.val ++ be 4 0 ++ be 1 16))
        else
          let s' := (s.act (.link l) fun e a => a.shelve e n .shelve).settleRelays
          (s', okAnswer (s'.shelveData p n.expiry))

/-- SHELVE_POINT (R64). -/
def execShelvePoint (l : LinkId) (s : State) : Host.Outcome State Fault Refusal :=
  s.run (·.request l .shelvePoint shelvePointBody)

/-- Unshelve Point: RANGE, NOTHING_PENDING, or the entry removed and the unshelve event handed over (R67). -/
def unshelvePointBody (l : LinkId) (b : List Byte) (s : Part) : Part × Answer :=
  match point? (field b 0 1) with
  | none => (s, refuseRange 1 (field b 0 1))
  | some p =>
    if s.alarm.points[p].state ≠ .shelved then (s, refuse .nothingPending)
    else s.onPoint l p (fun e a => a.unshelve e p .unshelve)

/-- UNSHELVE_POINT (R67). -/
def execUnshelvePoint (l : LinkId) (s : State) : Host.Outcome State Fault Refusal :=
  s.run (·.request l .unshelvePoint unshelvePointBody)

/-! ## Expiries (R68, R72) -/

/-- The first entry's point, where its expiry has been reached (R68). -/
def Alarm.shelfDue (a : Alarm) : Option PointId :=
  match a.shelf with
  | [] => none
  | n :: _ => if timeLeft a.journal.elapsed n.expiry = 0 then some n.point else none

/-- The first entry's expiry (R68). -/
def Part.shelfExpired (s : Part) : Part :=
  match s.alarm.shelfDue with
  | none => s
  | some p => ((s.act .timer fun e a => a.unshelve e p .expire).settleRelays).serve

/-- SHELF_EXPIRY (R68); an entry that is not due does not expire (log 2). -/
def execShelfExpiry (s : State) : Host.Outcome State Fault Refusal := s.run Part.shelfExpired

/-- A chatter window's expiry: count 0, window stopped, no record (R72). -/
def Part.chatterExpired (p : PointId) (s : Part) : Part :=
  if Timer.due s.alarm.journal.elapsed s.alarm.chatter[p].window then { s with alarm := s.alarm.setChatter p {} } else s

/-- CHATTER_WINDOW_EXPIRY (R72); a window that is not due does not expire (log 2). -/
def execChatterWindowExpiry (point : Nat) (s : State) : Host.Outcome State Fault Refusal :=
  match point? point with
  | some p => s.run (·.chatterExpired p)
  | none => .fault .noSuchPoint

end Sys2Proof.Machine
end

