-- ==== Sys2Proof/Machine/SounderFamily.lean ====
section
/-! DEFINITION. Meanings: the sounders and the panel (chapters 5, 6). -/

namespace Sys2Proof.Machine

/-! ## Read Sounders (R98) -/

/-- A channel's 5 characters (11.8). -/
def Channel.chars (c : Channel) : List Byte :=
  be 1 c.mode.code ++ be 1 c.mode.levelCode ++ be 1 c.shownLoudness ++ be 2 c.soundingHz

/-- A level's 6 characters: claims, lead point, lead entry stamp (11.8). -/
def Sounder.levelChars (s : Sounder) (l : Level) : List Byte :=
  be 1 (s.claims l).length
    ++ (match s.lead l with
      | none => be 1 255 ++ be 4 0
      | some c => be 1 c.point.val ++ be 4 c.stamp)

/-- Read Sounders' 33 characters (R98, 11.8). -/
def readSoundersBody (_ : LinkId) (_ : List Byte) (s : Part) : Part × Answer :=
  let x := s.alarm.sounder
  (s, okAnswer (x.ch0.chars ++ x.ch1.chars ++ be 1 x.w.code ++ x.levelChars .urgent ++ x.levelChars .high
    ++ x.levelChars .low ++ be 1 (yesNo x.dual) ++ be 1 (yesNo s.panel.testSet.active) ++ be 2 x.dropped))

/-- READ_SOUNDERS (R98). -/
def execReadSounders (l : LinkId) (s : State) : Host.Outcome State Fault Refusal :=
  s.run (·.request l .readSounders readSoundersBody)

/-! ## Chirp (R94) -/

/-- The reply to a Chirp request by its outcome (the table of R94). -/
def chirpAnswer : ChirpOutcome → Answer
  | .started c => okAnswer (be 1 (chanCode c))
  | .extended c => { status := .ok, flags := { extended := true }, data := be 1 (chanCode c) }
  | .dropped => { status := .ok, flags := { dropped := true }, data := be 1 255 }

/-- Chirp: placed by the common rule (R89, R94). -/
def chirpBody (_ : LinkId) (_ : List Byte) (s : Part) : Part × Answer :=
  let r := s.chirp
  (r.1, chirpAnswer r.2)

/-- CHIRP (R94). -/
def execChirp (l : LinkId) (s : State) : Host.Outcome State Fault Refusal := s.run (·.request l .chirp chirpBody)

/-! ## Timed changes of a channel (R80, R81, R90) -/

/-- A channel of the part. -/
def Part.channel (s : Part) (c : ChanId) : Channel := s.alarm.sounder.channel c

/-- A channel of the part replaced. -/
def Part.setChannel (s : Part) (c : ChanId) (v : Channel) : Part :=
  { s with alarm := { s.alarm with sounder := s.alarm.sounder.setChannel c v } }

/-- A channel's on or off phase ends (R80). -/
def Part.cadenceExpired (c : ChanId) (s : Part) : Part :=
  let now := s.alarm.journal.elapsed
  if Timer.due now (s.channel c).cadence then s.setChannel c ((s.channel c).nextPhase now) else s

/-- CADENCE_PHASE_EXPIRY (R80); a phase that is not over does not end (log 2). -/
def execCadencePhaseExpiry (c : ChanId) (s : State) : Host.Outcome State Fault Refusal := s.run (·.cadenceExpired c)

/-- A channel's escalation timer expires (R81). -/
def Part.escalationExpired (c : ChanId) (s : Part) : Part :=
  let now := s.alarm.journal.elapsed
  if Timer.due now (s.channel c).escalation then s.setChannel c ((s.channel c).escalate now) else s

/-- ESCALATION_STEP (R81); a timer that is not due does not expire (log 2). -/
def execEscalationStep (c : ChanId) (s : State) : Host.Outcome State Fault Refusal := s.run (·.escalationExpired c)

/-- A chirp's timer expires and its channel goes IDLE; no evaluation follows (R90). -/
def Part.chirpExpired (c : ChanId) (s : Part) : Part :=
  if Timer.due s.alarm.journal.elapsed (s.channel c).chirpTimer then s.setChannel c (s.channel c).goIdle else s

/-- CHIRP_TIMER_EXPIRY (R90); a timer that is not due does not expire (log 2). -/
def execChirpTimerExpiry (c : ChanId) (s : State) : Host.Outcome State Fault Refusal := s.run (·.chirpExpired c)

/-! ## Read Panel (R114) -/

/-- Read Panel's 15 characters (R114, 11.8). -/
def readPanelBody (_ : LinkId) (_ : List Byte) (s : Part) : Part × Answer :=
  let p := s.panel
  let now := s.alarm.journal.elapsed
  let keyChars (k : KeyId) := be 1 (keyFlags (p.key k).raw (p.key k).pressed (s.active.global.lock k))
  (s, okAnswer (keyChars .ack ++ keyChars .silence ++ keyChars .reset ++ keyChars .test
    ++ be 1 (yesNo s.active.global.keyChirp) ++ be 1 p.testSet.code ++ be 1 (yesNo p.testSet.active)
    ++ be 1 (secondsUp (Timer.remaining now p.testTimerA)) ++ be 1 (secondsUp (Timer.remaining now p.testTimerB))
    ++ allRelays.flatMap fun r => be 1 s.active.relays[r].code ++ be 1 (yesNo p.relays[r])))

/-- READ_PANEL (R114). -/
def execReadPanel (l : LinkId) (s : State) : Host.Outcome State Fault Refusal :=
  s.run (·.request l .readPanel readPanelBody)

/-! ## Test Begin and Test End (R108, R109) -/

/-- Link X's message test timer replaced. -/
def Part.setTestTimer (s : Part) (l : LinkId) (t : Timer) : Part := { s with panel := s.panel.setTestTimer l t }

/-- Test Begin: the link joins the test set and its timer is started at the duration (R108). -/
def testBeginBody (l : LinkId) (b : List Byte) (s : Part) : Part × Answer :=
  let seconds := field b 0 1
  if within 1 60 seconds = false then (s, refuseRange 1 seconds)
  else
    let s' := (s.changeTestSet (.link l) (s.panel.testSet.setLink l true)).setTestTimer l
      (some (clockAfter s.alarm.journal.elapsed (seconds * 1000)))
    (s', { status := .ok, flags := { extended := s.panel.testSet.hasLink l },
           data := be 1 s'.panel.testSet.code ++ be 1 seconds })

/-- TEST_BEGIN (R108). -/
def execTestBegin (l : LinkId) (s : State) : Host.Outcome State Fault Refusal :=
  s.run (·.request l .testBegin testBeginBody)

/-- Link X leaves the test set by an event of origin `o`, and its timer stops (R107, R109). -/
def Part.leaveTest (l : LinkId) (o : Origin) (s : Part) : Part :=
  (s.changeTestSet o (s.panel.testSet.setLink l false)).setTestTimer l none

/-- Test End: NOTHING_PENDING, or the link's source removed (R109). -/
def testEndBody (l : LinkId) (_ : List Byte) (s : Part) : Part × Answer :=
  if s.panel.testSet.hasLink l = false then (s, refuse .nothingPending)
  else
    let s' := s.leaveTest l (.link l)
    (s', okAnswer (be 1 s'.panel.testSet.code))

/-- TEST_END (R109). -/
def execTestEnd (l : LinkId) (s : State) : Host.Outcome State Fault Refusal := s.run (·.request l .testEnd testEndBody)

/-- A link's message test timer expires (R109). -/
def Part.messageTestExpired (l : LinkId) (s : Part) : Part :=
  if Timer.due s.alarm.journal.elapsed (s.panel.testTimer l) then (s.leaveTest l .timer).serve else s

/-- MESSAGE_TEST_EXPIRY (R109); a timer that is not due does not expire (log 2). -/
def execMessageTestExpiry (l : LinkId) (s : State) : Host.Outcome State Fault Refusal := s.run (·.messageTestExpired l)

/-! ## Keys and lamps (R103, R112) -/

/-- KEY_SAMPLE (R103); a sample that is not due is not made, and its level stands at the line (log 21). -/
def execKeySample (k : KeyId) (level : Wire) (s : State) : Host.Outcome State Fault Refusal := s.run (·.sampleKey k level)

/-- A key's steady timer expires (R103). -/
def Part.keyExpired (k : KeyId) (s : Part) : Part :=
  if Timer.due s.alarm.journal.elapsed (s.panel.key k).steady then (s.keySteady k).serve else s

/-- KEY_STEADY_EXPIRY (R103); a timer that is not due does not expire (log 2). -/
def execKeySteadyExpiry (k : KeyId) (s : State) : Host.Outcome State Fault Refusal := s.run (·.keyExpired k)

/-- The lamp refresh is due (R112, R127). -/
def Part.refreshDue (s : Part) : Bool := Timer.due s.alarm.journal.elapsed s.panel.refresh

/-- The lamp refresh's period ends (R112, R127). -/
def Part.refreshExpired (s : Part) : Part := if s.refreshDue then s.refreshLamps else s

/-- LAMP_REFRESH (R112); a refresh that is not due is not made (log 2). -/
def execLampRefresh (s : State) : Host.Outcome State Fault Refusal := s.run Part.refreshExpired

end Sys2Proof.Machine
end

