-- ==== Sys2Proof/Machine/JournalFamily.lean ====
section
/-! DEFINITION. Meanings: the journal, the clock and the streams (chapters 7, 8). -/

namespace Sys2Proof.Machine

/-- The Journal block replaced. -/
def Part.setJournal (s : Part) (j : Journal) : Part := { s with alarm := { s.alarm with journal := j } }

/-- Link X's stream replaced. -/
def Part.setStream (s : Part) (l : LinkId) (t : Stream) : Part := s.setJournal (s.alarm.journal.setStream l t)

/-! ## Subscribe (R133, R134) -/

/-- A gap pending as a reply carries it: none is first lost 0 and count 0 (R186). -/
def gapChars : Option Gap → List Byte
  | none => be 4 0 ++ be 2 0
  | some g => be 4 g.first ++ be 2 g.count

/-- A stream set afresh, and the Subscribe reply that shows it (R133, R134). -/
def Part.subscribeTo (l : LinkId) (cursor credits : Nat) (gap : Option Gap) (s : Part) : Part × Answer :=
  (s.setStream l ⟨true, cursor, credits, gap⟩,
    okAnswer (be 4 cursor ++ be 1 credits ++ gapChars gap ++ be 4 s.alarm.journal.newest))

/-- Subscribe FROM a sequence number that lies at a place against the ring (R133). -/
def Part.subscribeFrom (l : LinkId) (n credits : Nat) (s : Part) : SeqPlace → Part × Answer
  | .newer => (s, refuseRange 2 n)
  | .held _ => s.subscribeTo l n credits none
  | .next => s.subscribeTo l n credits none
  | .lost m => s.subscribeTo l s.alarm.journal.oldest credits (some ⟨n, cap16 m⟩)

/-- Subscribe: the checks of R133 in order, then the stream at NEXT, OLDEST or FROM. -/
def subscribeBody (l : LinkId) (b : List Byte) (s : Part) : Part × Answer :=
  let j := s.alarm.journal
  let start := field b 0 1
  let n := field b 1 4
  let credits := field b 5 1
  if within 0 2 start = false then (s, refuseRange 1 start)
  else if within 0 64 credits = false then (s, refuseRange 3 credits)
  else if start = 0 then s.subscribeTo l j.nextSeq credits none
  else if start = 1 then s.subscribeTo l j.oldest credits none
  else if n = 0 then (s, refuseRange 2 n)
  else s.subscribeFrom l n credits (j.place n)

/-- SUBSCRIBE (R133). -/
def execSubscribe (l : LinkId) (s : State) : Host.Outcome State Fault Refusal :=
  s.run (·.request l .subscribe subscribeBody)

/-! ## Grant Credits and Unsubscribe (R135, R136) -/

/-- Credits added, at most 64 (R135). -/
def addCredits (have_ more : Nat) : Nat := if have_ + more < Config.maxCredits then have_ + more else Config.maxCredits

/-- Grant Credits: RANGE, NOT_SUBSCRIBED, or the credits added (R135). -/
def grantCreditsBody (l : LinkId) (b : List Byte) (s : Part) : Part × Answer :=
  let n := field b 0 1
  let t := s.alarm.journal.stream l
  if within 1 64 n = false then (s, refuseRange 1 n)
  else if t.subscribed = false then (s, refuse .notSubscribed)
  else
    let c := addCredits t.credits n
    (s.setStream l { t with credits := c }, okAnswer (be 1 c ++ be 4 t.cursor ++ be 1 (yesNo t.gap.isSome)))

/-- GRANT_CREDITS (R135). -/
def execGrantCredits (l : LinkId) (s : State) : Host.Outcome State Fault Refusal :=
  s.run (·.request l .grantCredits grantCreditsBody)

/-- Unsubscribe: the stream ended, and whether it was subscribed (R136). -/
def unsubscribeBody (l : LinkId) (_ : List Byte) (s : Part) : Part × Answer :=
  (s.setJournal (s.alarm.journal.endStream l), okAnswer (be 1 (yesNo (s.alarm.journal.stream l).subscribed)))

/-- UNSUBSCRIBE (R136). -/
def execUnsubscribe (l : LinkId) (s : State) : Host.Outcome State Fault Refusal :=
  s.run (·.request l .unsubscribe unsubscribeBody)

/-! ## Fetch (R122, R123) -/

/-- Fetch: RANGE, or the newest number and the entries (R122). -/
def fetchBody (_ : LinkId) (b : List Byte) (s : Part) : Part × Answer :=
  let first := field b 0 4
  let count := field b 4 1
  if first = 0 then (s, refuseRange 1 first)
  else if within 1 8 count = false then (s, refuseRange 2 count)
  else
    let rs := s.alarm.journal.fetch first count
    (s, okAnswer (be 4 s.alarm.journal.newest ++ be 1 rs.length ++ rs.flatMap Record.chars))

/-- FETCH (R122). -/
def execFetch (l : LinkId) (s : State) : Host.Outcome State Fault Refusal := s.run (·.request l .fetch fetchBody)

/-! ## Set Clock (R128) -/

/-- Set Clock: the clock loaded, the basis CALENDAR, CLOCK_SET appended on the new clock (R128). -/
def setClockBody (l : LinkId) (b : List Byte) (s : Part) : Part × Answer :=
  let j := s.alarm.journal
  let s' := (s.setJournal { j with clock := field b 0 6, basis := .calendar }).append
    { kind := .clockSet, origin := .link l }
  (s', okAnswer (be 6 j.clock ++ be 1 j.basis.code ++ be 4 j.nextSeq))

/-- SET_CLOCK (R128). -/
def execSetClock (l : LinkId) (s : State) : Host.Outcome State Fault Refusal :=
  s.run (·.request l .setClock setClockBody)

end Sys2Proof.Machine
end

