-- ==== Sys2Proof/Machine/ConfigFamily.lean ====
section
/-! DEFINITION. Meanings: sessions, staging, commit and restart (chapter 9). -/

namespace Sys2Proof.Machine

/-! ## Open and Close Session (R148, R152) -/

/-- Open Session by the state of the lock (R148). -/
def openSessionBody (l : LinkId) (_ : List Byte) (s : Part) : Part × Answer :=
  match s.manager.holder with
  | none =>
    let id := sessionIdAfter s.manager.idCounter
    let m := { s.manager with holder := some l, sessionId := id, idCounter := id, staging := some s.active }
    ({ s with manager := m }.append { kind := .sessionOpened, origin := .link l, detail := some id },
      okAnswer (be 1 id ++ be 1 (yesNo true)))
  | some h =>
    if h = l then (s, okAnswer (be 1 s.manager.sessionId ++ be 1 (yesNo false)))
    else (s, refuse .sessionHeld (be 1 (linkCode h)))

/-- OPEN_SESSION (R148). -/
def execOpenSession (l : LinkId) (s : State) : Host.Outcome State Fault Refusal :=
  s.run (·.request l .openSession openSessionBody)

/-- Close Session: NO_SESSION, or SESSION_CLOSED appended and the lock freed (R152). -/
def closeSessionBody (l : LinkId) (_ : List Byte) (s : Part) : Part × Answer :=
  if s.manager.heldBy l = false then (s, refuse .noSession)
  else
    let id := s.manager.sessionId
    let s' := s.append { kind := .sessionClosed, origin := .link l, detail := some id }
    ({ s' with manager := { s'.manager with holder := none, sessionId := 0, staging := none } }, okAnswer (be 1 id))

/-- CLOSE_SESSION (R152). -/
def execCloseSession (l : LinkId) (s : State) : Host.Outcome State Fault Refusal :=
  s.run (·.request l .closeSession closeSessionBody)

/-! ## Staging (R149) -/

/-- A record name given by its set and the first character of a Stage body. -/
def stageName (set : Nat) (b : List Byte) : Except Answer RecordName :=
  match recordName set (field b 0 1) with
  | .ok n => .ok n
  | .error _ => .error (refuseRange 1 (field b 0 1))

/-- A configuration with one record replaced by the one read from its fields; `r` holds the record's characters. -/
def Configuration.withRecord (r : List Byte) (n : RecordName) (c : Configuration) : Configuration :=
  match n with
  | .point p => { c with points := c.points.set p (pointRecordOf r) }
  | .line i => { c with lines := c.lines.set i (lineRecordOf r) }
  | .tone t => { c with tones := c.tones.withRecord r t }
  | .relay i => { c with relays := c.relays.set i (relayModeOf (field r 0 1)) }
  | .link k => c.setLink k (linkRecordOf r)
  | .global => { c with global := globalRecordOf r }

/-- A record's fields with the check of each (R149). -/
def recordFields (r : List Byte) : RecordName → List (Nat × Bool)
  | .point _ => pointFields r
  | .line _ => lineFields r
  | .tone t => toneFields r t
  | .relay _ => relayFields r
  | .link _ => linkFields r
  | .global => globalFields r

/-- A Stage request of a set whose records are named: the name is field 1, the record's first field is field 2
(R149, R187). -/
def stageBody (set : Nat) (l : LinkId) (b : List Byte) (s : Part) : Part × Answer :=
  s.stageRecord l (stageName set b) 2 (recordFields (b.drop 1)) (Configuration.withRecord (b.drop 1))

/-- STAGE_POINT (R149). -/
def execStagePoint (l : LinkId) (s : State) : Host.Outcome State Fault Refusal :=
  s.run (·.request l .stagePoint (stageBody 0))

/-- STAGE_LINE (R149). -/
def execStageLine (l : LinkId) (s : State) : Host.Outcome State Fault Refusal :=
  s.run (·.request l .stageLine (stageBody 1))

/-- STAGE_TONE (R149). -/
def execStageTone (l : LinkId) (s : State) : Host.Outcome State Fault Refusal :=
  s.run (·.request l .stageTone (stageBody 2))

/-- STAGE_RELAY (R149). -/
def execStageRelay (l : LinkId) (s : State) : Host.Outcome State Fault Refusal :=
  s.run (·.request l .stageRelay (stageBody 3))

/-- STAGE_LINK (R149). -/
def execStageLink (l : LinkId) (s : State) : Host.Outcome State Fault Refusal :=
  s.run (·.request l .stageLink (stageBody 4))

/-- Stage Global: the one record of its set, whose first field is field 1 (R149, R187). -/
def stageGlobalBody (l : LinkId) (b : List Byte) (s : Part) : Part × Answer :=
  s.stageRecord l (.ok .global) 1 (recordFields b) (Configuration.withRecord b)

/-- STAGE_GLOBAL (R149). -/
def execStageGlobal (l : LinkId) (s : State) : Host.Outcome State Fault Refusal :=
  s.run (·.request l .stageGlobal stageGlobalBody)

/-! ## Reading the two configurations (R150) -/

/-- Read Staged: RANGE, NO_SESSION (log 19), or the record and its differs flag (R150). -/
def readStagedBody (l : LinkId) (b : List Byte) (s : Part) : Part × Answer :=
  match recordName (field b 0 1) (field b 1 1) with
  | .error e => (s, e)
  | .ok n =>
    if s.manager.heldBy l = false then (s, refuse .noSession)
    else (s, okAnswer (s.staged.recordChars (field b 1 1) n ++ be 1 (yesNo (s.staged.differs s.active n))))

/-- READ_STAGED (R150). -/
def execReadStaged (l : LinkId) (s : State) : Host.Outcome State Fault Refusal :=
  s.run (·.request l .readStaged readStagedBody)

/-- Read Active: RANGE, or the record (R150). -/
def readActiveBody (_ : LinkId) (b : List Byte) (s : Part) : Part × Answer :=
  match recordName (field b 0 1) (field b 1 1) with
  | .error e => (s, e)
  | .ok n => (s, okAnswer (s.active.recordChars (field b 1 1) n))

/-- READ_ACTIVE (R150). -/
def execReadActive (l : LinkId) (s : State) : Host.Outcome State Fault Refusal :=
  s.run (·.request l .readActive readActiveBody)

/-! ## Discard (R151) -/

/-- Discard: NO_SESSION, or the staging a fresh copy of the active configuration (R151). -/
def discardBody (l : LinkId) (_ : List Byte) (s : Part) : Part × Answer :=
  if s.manager.heldBy l = false then (s, refuse .noSession)
  else (s.setStaging s.active, okAnswer (be 1 (s.staged.countDiffering s.active)))

/-- DISCARD (R151). -/
def execDiscard (l : LinkId) (s : State) : Host.Outcome State Fault Refusal := s.run (·.request l .discard discardBody)

/-! ## Commit (R154) -/

/-- The time the next commit check takes, 1 to 30 ms (R154, log 5). -/
def checkTime (n : Nat) : Nat := 1 + Config.commitCheckTime n % 30

/-- Commit: NO_SESSION, or the check set running and its completion timer started; the request stays in execution
(R154). -/
def commitBody (l : LinkId) (_ : List Byte) (s : Part) : Part × Option Answer :=
  if s.manager.heldBy l = false then (s, some (refuse .noSession))
  else
    ({ s with
        manager := { s.manager with check := some (clockAfter s.alarm.journal.elapsed (checkTime s.free)) }
        free := s.free + 1 },
      none)

/-- COMMIT (R154). -/
def execCommit (l : LinkId) (s : State) : Host.Outcome State Fault Refusal :=
  s.run (·.execute l .commit (fun _ => true) commitBody)

/-- The commit check's completion timer expires (R154, R156, R158). -/
def Part.checkExpired (s : Part) : Part :=
  if Timer.due s.alarm.journal.elapsed s.manager.check then s.completeCheck.serve else s

/-- COMMIT_CHECK_COMPLETION (R154); a timer that is not due does not expire (log 2). -/
def execCommitCheckCompletion (s : State) : Host.Outcome State Fault Refusal := s.run Part.checkExpired

/-! ## Restart (R160, R161, R162) -/

/-- The Restart bodies the row RESTART_WARM executes: all but COLD's (log 4). -/
def warmBodies (b : List Byte) : Bool := decide (b ≠ [(1 : Byte)])

/-- The Restart bodies the row RESTART_COLD executes: all but WARM's (log 4). -/
def coldBodies (b : List Byte) : Bool := decide (b ≠ [(0 : Byte)])

/-- Restart WARM: RANGE, or the session step, then the rebuild (R160, R161). -/
def restartWarmBody (l : LinkId) (b : List Byte) (s : Part) : Part × Option Answer :=
  if field b 0 1 ≠ 0 then (s, some (refuseRange 1 (field b 0 1)))
  else
    let s1 := s.endForRestart l
    (s1.warm l, some (okAnswer (be 4 s1.alarm.journal.nextSeq)))

/-- RESTART_WARM (R160, R161). -/
def execRestartWarm (l : LinkId) (s : State) : Host.Outcome State Fault Refusal :=
  s.run (·.execute l .restart warmBodies restartWarmBody)

/-- Restart COLD: RANGE, or the session step, the link held back, and the OK reply whose end brings the full reset, unless
the other link's does (R160, R162). -/
def restartColdBody (l : LinkId) (b : List Byte) (s : Part) : Part × Option Answer :=
  if field b 0 1 ≠ 1 then (s, some (refuseRange 1 (field b 0 1)))
  else
    let s1 := s.endForRestart l
    let first := s1.manager.drain.isNone
    let s2 := { s1 with manager := { s1.manager with drain := if first then some l else s1.manager.drain } }
    (s2.setLink l { s2.link l with held := true }, some { status := .ok, data := be 4 0, resets := first })

/-- RESTART_COLD (R160, R162). -/
def execRestartCold (l : LinkId) (s : State) : Host.Outcome State Fault Refusal :=
  s.run (·.execute l .restart coldBodies restartColdBody)

end Sys2Proof.Machine
end

