-- ==== Sys2Proof/Machine/Idle.lean ====
section
/-! DEFINITION. The part's own work with no command waiting (log 1): what is due, which of it is taken, and one
millisecond of time. -/

namespace Sys2Proof.Machine

/-- The row of the table that executes a request of a kind on a link; Restart has two rows, told apart by the body
(log 4). -/
def requestCommand (l : LinkId) (body : List Byte) : RequestKind → Instr
  | .hello => .hello l
  | .ping => .ping l
  | .readLinkStatus => .readLinkStatus l
  | .readPoint => .readPoint l
  | .readSummary => .readSummary l
  | .readLines => .readLines l
  | .readGroups => .readGroups l
  | .readShelf => .readShelf l
  | .readSounders => .readSounders l
  | .readPanel => .readPanel l
  | .raise => .raise l
  | .clear => .clear l
  | .acknowledgeAll => .acknowledgeAll l
  | .acknowledgePoint => .acknowledgePoint l
  | .silence => .silence l
  | .resetAll => .resetAll l
  | .resetPoint => .resetPoint l
  | .shelvePoint => .shelvePoint l
  | .unshelvePoint => .unshelvePoint l
  | .testBegin => .testBegin l
  | .testEnd => .testEnd l
  | .chirp => .chirp l
  | .subscribe => .subscribe l
  | .grantCredits => .grantCredits l
  | .unsubscribe => .unsubscribe l
  | .fetch => .fetch l
  | .setClock => .setClock l
  | .openSession => .openSession l
  | .stagePoint => .stagePoint l
  | .stageLine => .stageLine l
  | .stageTone => .stageTone l
  | .stageRelay => .stageRelay l
  | .stageLink => .stageLink l
  | .stageGlobal => .stageGlobal l
  | .readStaged => .readStaged l
  | .readActive => .readActive l
  | .discard => .discard l
  | .commit => .commit l
  | .closeSession => .closeSession l
  | .restart => if coldBodies body then .restartCold l else .restartWarm l

/-- The row that executes a frame (R172). -/
def frameCommand (l : LinkId) (f : Frame) : Instr :=
  match RequestKind.ofCode f.kind with
  | some k => requestCommand l f.body k
  | none => .unknownKind l

/-- A command, where its condition holds. -/
def whenDue (due : Bool) (c : Instr) : List Instr := if due then [c] else []

/-- What is due on a channel (R80, R81, R90). -/
def Part.dueOnChannel (s : Part) (c : ChanId) : List Instr :=
  let now := s.alarm.journal.elapsed
  whenDue (Timer.due now (s.channel c).cadence) (.cadencePhaseExpiry c)
    ++ whenDue (Timer.due now (s.channel c).escalation) (.escalationStep c)
    ++ whenDue (Timer.due now (s.channel c).chirpTimer) (.chirpTimerExpiry c)

/-- What is due on a link: its next frame, its supervision, its message test (R109, R171, R178). -/
def Part.dueOnLink (s : Part) (l : LinkId) : List Instr :=
  let now := s.alarm.journal.elapsed
  (match (s.link l).nextFrame with
    | some f => [frameCommand l f]
    | none => [])
    ++ whenDue (s.silenceDue l) (.supervisionExpiry l)
    ++ whenDue (Timer.due now (s.panel.testTimer l)) (.messageTestExpiry l)

/-- What is due on a key: its sample, of the level that stands at its line, and its steady timer (R103). -/
def Part.dueOnKey (s : Part) (k : KeyId) : List Instr :=
  whenDue (s.sampleDue k) (.keySample k (s.keyLine k).level)
    ++ whenDue (Timer.due s.alarm.journal.elapsed (s.panel.key k).steady) (.keySteadyExpiry k)

/-- What is due on a point: its reminder, its chatter window (R16, R72). -/
def Part.dueOnPoint (s : Part) (p : PointId) : List Instr :=
  whenDue (s.reminderDue p) (.reminderExpiry p.val)
    ++ whenDue (Timer.due s.alarm.journal.elapsed s.alarm.chatter[p].window) (.chatterWindowExpiry p.val)

/-- Everything of the part's own work that is due now, but for the intra-frame gaps, which expire as the count ends. -/
def Part.dueCommands (s : Part) : List Instr :=
  s.dueOnLink .a ++ s.dueOnLink .b
    ++ s.dueOnKey .ack ++ s.dueOnKey .silence ++ s.dueOnKey .reset ++ s.dueOnKey .test
    ++ s.dueOnChannel .ch0 ++ s.dueOnChannel .ch1
    ++ whenDue s.alarm.shelfDue.isSome .shelfExpiry
    ++ whenDue (Timer.due s.alarm.journal.elapsed s.manager.check) .commitCheckCompletion
    ++ whenDue s.scanDue (.lineScan s.inputs)
    ++ whenDue s.refreshDue .lampRefresh
    ++ allPoints.flatMap s.dueOnPoint

/-- The due command that is taken: of several, a free choice (log 7). -/
def Part.nextDue (s : Part) : Option Instr := s.dueCommands[Config.dueChoice s.free % s.dueCommands.length]?

/-- The model's counter gone on, so that the next free choice is a fresh one (log 7, log 25). -/
def Part.chosen (s : Part) : Part := { s with free := s.free + 1 }

/-- The present count ends.  No character has arrived that it has not taken, so the frames whose gap timer expires at it are
abandoned (R167, log 16). -/
def Part.endCount (s : Part) : Part := (s.gapExpired .a).gapExpired .b

/-- One millisecond: part clock, elapsed count and flash phase advance by one (R111, R126, R127). -/
def Part.tick (s : Part) : Part :=
  { s with
    alarm := { s.alarm with journal := s.alarm.journal.tick }
    panel := { s.panel with flash := (s.panel.flash + 1) % 1000 } }

end Sys2Proof.Machine
end

