-- ==== Sys2Proof/Machine/Dispatch.lean ====
section
/-! DEFINITION. Which meaning each command has: one arm per row of spec/opcode_table.json. -/

namespace Sys2Proof.Machine

/-- A command's effect on everything but the queue. -/
def exec (i : Instr) (s : State) : Host.Outcome State Fault Refusal :=
  match i with
  | .hello l => Sys2Proof.Machine.execHello l s
  | .ping l => Sys2Proof.Machine.execPing l s
  | .readLinkStatus l => Sys2Proof.Machine.execReadLinkStatus l s
  | .readPoint l => Sys2Proof.Machine.execReadPoint l s
  | .readSummary l => Sys2Proof.Machine.execReadSummary l s
  | .readLines l => Sys2Proof.Machine.execReadLines l s
  | .readGroups l => Sys2Proof.Machine.execReadGroups l s
  | .readShelf l => Sys2Proof.Machine.execReadShelf l s
  | .readSounders l => Sys2Proof.Machine.execReadSounders l s
  | .readPanel l => Sys2Proof.Machine.execReadPanel l s
  | .raise l => Sys2Proof.Machine.execRaise l s
  | .clear l => Sys2Proof.Machine.execClear l s
  | .acknowledgeAll l => Sys2Proof.Machine.execAcknowledgeAll l s
  | .acknowledgePoint l => Sys2Proof.Machine.execAcknowledgePoint l s
  | .silence l => Sys2Proof.Machine.execSilence l s
  | .resetAll l => Sys2Proof.Machine.execResetAll l s
  | .resetPoint l => Sys2Proof.Machine.execResetPoint l s
  | .shelvePoint l => Sys2Proof.Machine.execShelvePoint l s
  | .unshelvePoint l => Sys2Proof.Machine.execUnshelvePoint l s
  | .testBegin l => Sys2Proof.Machine.execTestBegin l s
  | .testEnd l => Sys2Proof.Machine.execTestEnd l s
  | .chirp l => Sys2Proof.Machine.execChirp l s
  | .subscribe l => Sys2Proof.Machine.execSubscribe l s
  | .grantCredits l => Sys2Proof.Machine.execGrantCredits l s
  | .unsubscribe l => Sys2Proof.Machine.execUnsubscribe l s
  | .fetch l => Sys2Proof.Machine.execFetch l s
  | .setClock l => Sys2Proof.Machine.execSetClock l s
  | .openSession l => Sys2Proof.Machine.execOpenSession l s
  | .stagePoint l => Sys2Proof.Machine.execStagePoint l s
  | .stageLine l => Sys2Proof.Machine.execStageLine l s
  | .stageTone l => Sys2Proof.Machine.execStageTone l s
  | .stageRelay l => Sys2Proof.Machine.execStageRelay l s
  | .stageLink l => Sys2Proof.Machine.execStageLink l s
  | .stageGlobal l => Sys2Proof.Machine.execStageGlobal l s
  | .readStaged l => Sys2Proof.Machine.execReadStaged l s
  | .readActive l => Sys2Proof.Machine.execReadActive l s
  | .discard l => Sys2Proof.Machine.execDiscard l s
  | .commit l => Sys2Proof.Machine.execCommit l s
  | .closeSession l => Sys2Proof.Machine.execCloseSession l s
  | .restartWarm l => Sys2Proof.Machine.execRestartWarm l s
  | .restartCold l => Sys2Proof.Machine.execRestartCold l s
  | .unknownKind l => Sys2Proof.Machine.execUnknownKind l s
  | .lineScan levels => Sys2Proof.Machine.execLineScan levels s
  | .keySample k level => Sys2Proof.Machine.execKeySample k level s
  | .keySteadyExpiry k => Sys2Proof.Machine.execKeySteadyExpiry k s
  | .reminderExpiry point => Sys2Proof.Machine.execReminderExpiry point s
  | .shelfExpiry => Sys2Proof.Machine.execShelfExpiry s
  | .chatterWindowExpiry point => Sys2Proof.Machine.execChatterWindowExpiry point s
  | .cadencePhaseExpiry c => Sys2Proof.Machine.execCadencePhaseExpiry c s
  | .escalationStep c => Sys2Proof.Machine.execEscalationStep c s
  | .chirpTimerExpiry c => Sys2Proof.Machine.execChirpTimerExpiry c s
  | .messageTestExpiry l => Sys2Proof.Machine.execMessageTestExpiry l s
  | .lampRefresh => Sys2Proof.Machine.execLampRefresh s
  | .commitCheckCompletion => Sys2Proof.Machine.execCommitCheckCompletion s
  | .receiveCharacter l c => Sys2Proof.Machine.execReceiveCharacter l c s
  | .intraFrameGapExpiry l => Sys2Proof.Machine.execIntraFrameGapExpiry l s
  | .supervisionExpiry l => Sys2Proof.Machine.execSupervisionExpiry l s
  | .transmitComplete l straps => Sys2Proof.Machine.execTransmitComplete l straps s
  | .fullReset straps => Sys2Proof.Machine.execFullReset straps s

end Sys2Proof.Machine
end

