-- ==== Sys2Proof/Safety.lean ====
section
/-! DEFINITION. The terms the claims are stated in: which frame a link executes and passes the common checks, what its
answer leaves behind, what the Journal has taken, and the laws that every step keeps. -/

namespace Sys2Proof.Machine

/-! ## Requests -/

/-- Link X executes frame `f` now, of kind `k`: it is the oldest waiting one, it is not answered from the cache, and it
passes the checks common to all requests (R171, R172, R175). -/
structure Part.Ready (s : Part) (l : LinkId) (k : RequestKind) (f : Frame) : Prop where
  next : (s.link l).nextFrame = some f
  kind : RequestKind.ofCode f.kind = some k
  fresh : (s.link l).cachedReply f = none
  length : k.lengthOk f.body = true
  authority : (s.link l).authority.allows k.needs = true

/-- The part after a request that changes nothing but its own link's queues and cache, and what the transmitters then
take (R171, R175, R176). -/
def Part.answered (s : Part) (l : LinkId) (f : Frame) (ans : Answer) : Part := (s.begin l f).conclude l f ans

/-- Link X's queues and cache after a request with answer `ans`, and its frame off the queue (R170, R171, R175). -/
structure Part.Replied (s t : Part) (l : LinkId) (f : Frame) (ans : Answer) : Prop where
  waiting : (t.link l).waiting = (s.link l).waiting.tail
  executing : (t.link l).executing = none
  replies : (t.link l).replies = (s.link l).replies ++ [⟨f.tag, f.kind, ans⟩]
  cache : (t.link l).cache = if f.tag = 0 then (s.link l).cache else some ⟨f.tag, f.kind, f.crc, ⟨f.tag, f.kind, ans⟩⟩

/-- A link but for the frame in its transmitter. -/
def Link.quiet (k : Link) : Link := { k with sending := none }

/-- The part but for the links' transmitters and the stream records, which alone change when a transmitter takes a frame
(R138, R176). -/
def Part.quiet (s : Part) : Part :=
  { s with
    linkA := s.linkA.quiet
    linkB := s.linkB.quiet
    alarm := { s.alarm with journal := { s.alarm.journal with streamA := {}, streamB := {} } } }

/-- A command completes: the part becomes `t`, and the queue is left alone. -/
def State.becomes (s : State) (t : Part) : Host.Outcome State Fault Refusal := .next { s with toPart := t }

/-- The part with its alarms brought to `a`, and the relays settled (R113). -/
def Part.withAlarm (s : Part) (a : Alarm) : Part := ({ s with alarm := a }).settleRelays

/-! ## Moves and new occurrences of a point -/

/-- Records appended one after the other. -/
def Journal.appendAll (bs : List RecordBody) (j : Journal) : Journal := bs.foldl (fun j b => j.append b) j

/-- The state an entry leads to (R7 step 2). -/
def Sequence.entryState : Sequence → PointState
  | .notice => .standing
  | .hold => .alerting
  | .follow => .alerting

/-- The dynamic record an entry gives (R7 steps 2 and 3). -/
def Alarm.entered (e : Env) (p : PointId) (a : Alarm) : Point :=
  { a.points[p] with
    state := e.config.points[p].sequence.entryState
    hushed := false
    mark := a.findsArmed e p || a.points[p].mark
    entryStamp := a.journal.nextSeq
    reminder := none }

/-- Going to `to_`, point `p` leaves the active states and so releases point `q` (R8, R54). -/
def Alarm.frees (c : Configuration) (p : PointId) (to_ : PointState) (a : Alarm) (q : PointId) : Bool :=
  a.points[p].state.active && !to_.active && decide (a.points[q].state = .suppressed)
    && decide (c.points[q].suppressor = some p)

/-- The points released when `p` goes to `to_`, in the order in which they are released (R54). -/
def Alarm.freedBy (c : Configuration) (p : PointId) (to_ : PointState) (a : Alarm) : List PointId :=
  allPoints.filter fun q => decide (q ≠ p) && a.frees c p to_ q

/-- Of points that enter in this order, the one that takes an armed group's mark: its first member among them (R47). -/
def firstOf (c : Configuration) (g : GroupId) (qs : List PointId) : Option PointId :=
  qs.find? fun q => decide (c.points[q].group = some g)

/-- A group record once these points have entered in this order (R47). -/
def Group.afterEntries (c : Configuration) (g : GroupId) (qs : List PointId) (r : Group) : Group :=
  match firstOf c g qs with
  | some q => if r.armed then { r with armed := false, first := some q } else r
  | none => r

/-- Of points that enter in this order, `q` takes the mark of its group (R47). -/
def Alarm.takesMark (c : Configuration) (qs : List PointId) (q : PointId) (a : Alarm) : Bool :=
  match c.points[q].group with
  | some g => a.groups[g].armed && decide (firstOf c g qs = some q)
  | none => false

/-- From `a` to `b` point `p` has gone to a state other than by an entry, with R8's effects where it left the active
states: its mark lost, its consequents released, its group looked at again. -/
structure Alarm.Moved (e : Env) (p : PointId) (to_ : PointState) (cause : Cause) (a b : Alarm) : Prop where
  state : b.points[p].state = to_
  hushed : b.points[p].hushed = false
  mark : b.points[p].mark = (a.points[p].mark && (to_.active || !a.points[p].state.active))
  reminder : b.points[p].reminder = if to_ = .standing then a.reminderStart e p else none
  abnormal : b.points[p].abnormal = a.points[p].abnormal
  occurrence : b.points[p].occurrence = a.points[p].occurrence
  entryStamp : b.points[p].entryStamp = a.points[p].entryStamp
  lamp : b.lamps[p] = b.points[p].pattern
  claim : b.sounder.claimLevel p = claimOf e.config.points[p] b.points[p]
  freed : ∀ q, q ≠ p → a.frees e.config p to_ q = true → b.points[q] =
    { a.points[q] with
      state := e.config.points[q].sequence.entryState
      hushed := false
      mark := a.takesMark e.config (a.freedBy e.config p to_) q || a.points[q].mark
      entryStamp := seqAfter^[(a.freedBy e.config p to_).idxOf q + 1] a.journal.nextSeq
      reminder := none }
  others : ∀ q, q ≠ p → a.frees e.config p to_ q = false → b.points[q] = a.points[q]
  lamps : ∀ q, q ≠ p → b.lamps[q] = if a.frees e.config p to_ q then b.points[q].pattern else a.lamps[q]
  claims : ∀ q, q ≠ p → b.sounder.claimLevel q =
    if a.frees e.config p to_ q then claimOf e.config.points[q] b.points[q] else a.sounder.claimLevel q
  groups : ∀ g : GroupId, b.groups[g] =
    if a.points[p].state.active = true ∧ to_.active = false ∧ e.config.points[p].group = some g ∧
        b.groupActive e.config g = false
    then { a.groups[g] with armed := true, first := none }
    else Group.afterEntries e.config g (a.freedBy e.config p to_) a.groups[g]
  journal : b.journal = a.journal.appendAll (pointRecord e p a.points[p].state b.points[p] cause ::
    (a.freedBy e.config p to_).map fun q => pointRecord e q .suppressed b.points[q] .release)
  shelf : b.shelf = a.shelf
  chatter : b.chatter = a.chatter

/-- From `a` to `b` point `p` has made its entry with this occurrence number: nothing else in the point table changed, its
claim was passed on, after a chirp for NOTICE, and one record was appended (R7, R47). -/
structure Alarm.EnteredAs (e : Env) (p : PointId) (cause : Cause) (occurrence : Nat) (a b : Alarm) : Prop where
  point : b.points[p] = { a.entered e p with occurrence := occurrence }
  lamp : b.lamps[p] = b.points[p].pattern
  claim : b.sounder.claimLevel p = claimOf e.config.points[p] b.points[p]
  sounder : b.sounder =
    (if e.config.points[p].sequence = .notice then (a.sounder.chirp a.journal.elapsed).1 else a.sounder).passClaim
      e.test e.defer a.journal.elapsed p (claimOf e.config.points[p] b.points[p]) b.points[p].entryStamp
  group : ∀ g : GroupId, b.groups[g] =
    if e.config.points[p].group = some g ∧ a.groups[g].armed = true
    then { a.groups[g] with armed := false, first := some p } else a.groups[g]
  others : ∀ q, q ≠ p → b.points[q] = a.points[q]
  lamps : ∀ q, q ≠ p → b.lamps[q] = a.lamps[q]
  journal : b.journal = a.journal.append (pointRecord e p a.points[p].state b.points[p] cause)
  shelf : b.shelf = a.shelf
  chatter : b.chatter = a.chatter

/-- From `a` to `b` point `p` has begun a new occurrence and, its suppressor not being active, made its entry (R6, R7). -/
abbrev Alarm.Entered (e : Env) (p : PointId) (cause : Cause) (a b : Alarm) : Prop :=
  Alarm.EnteredAs e p cause (occurrenceAfter a.points[p].occurrence) a b

/-- From `a` to `b` point `p` has been released from SUPPRESSED, with its occurrence number kept (R54, R59). -/
abbrev Alarm.Released (e : Env) (p : PointId) (a b : Alarm) : Prop :=
  Alarm.EnteredAs e p .release a.points[p].occurrence a b

/-- From `a` to `b` point `p` has begun a new occurrence by the entry test: held back in SUPPRESSED where its suppressor is
active, entered otherwise (R6, R7, R53). -/
def Alarm.Begun (e : Env) (p : PointId) (cause : Cause) (a b : Alarm) : Prop :=
  if a.suppressorActive e.config p then
    Alarm.Moved e p .suppressed .suppress
      (a.setPoint p { a.points[p] with occurrence := occurrenceAfter a.points[p].occurrence }) b
  else Alarm.Entered e p cause a b

/-- From `a` to `b` point `p` has come back from the shelf: a new occurrence where it is ABNORMAL, IDLE where it is NORMAL
(R14). -/
def Alarm.CameBack (e : Env) (p : PointId) (cause : Cause) (a b : Alarm) : Prop :=
  if a.points[p].abnormal then Alarm.Begun e p cause a b else Alarm.Moved e p .idle cause a b

/-- From `a` to `b` a waiting point has been acknowledged as its sequence's table directs (R9, R10). -/
def Alarm.Acknowledged (e : Env) (p : PointId) (a b : Alarm) : Prop :=
  ∃ t, (e.config.points[p].sequence = .hold ∧ a.points[p].state = .alerting ∧
      t = (if a.points[p].abnormal then .standing else .awaitReset) ∨
    e.config.points[p].sequence = .follow ∧ a.points[p].state = .alerting ∧ t = .standing ∨
    e.config.points[p].sequence = .follow ∧ a.points[p].state = .returned ∧ t = .idle) ∧
    Alarm.Moved e p t .ack a b

/-- From `a` to `b` a change has been made for each point of a list, each complete before the next. -/
def Chain (R : PointId → Alarm → Alarm → Prop) : List PointId → Alarm → Alarm → Prop
  | [], a, b => b = a
  | p :: ps, a, b => ∃ m, R p a m ∧ Chain R ps m b

/-- The points of a list in the order of the two entry passes: those without a suppressor first (R60). -/
def Configuration.passOrder (c : Configuration) (ps : List PointId) : List PointId :=
  (ps.filter fun p => c.points[p].suppressor.isNone) ++ ps.filter fun p => c.points[p].suppressor.isSome

/-! ## Commit apply -/

/-- A commit disables a point (R27 step 1). -/
abbrev Disables (old new : Configuration) (p : PointId) : Prop :=
  old.points[p].enabled = true ∧ new.points[p].enabled = false

/-- A commit resets a point: newly enabled, or still enabled with another source or sequence, and not SHELVED
(R27 step 2). -/
abbrev Resets (old new : Configuration) (a : Alarm) (p : PointId) : Prop :=
  new.points[p].enabled = true ∧ (old.points[p].enabled = false ∨ old.points[p].source ≠ new.points[p].source ∨
    old.points[p].sequence ≠ new.points[p].sequence) ∧ a.points[p].state ≠ .shelved

/-- From `a` to `b` a commit has moved the claims of the points it keeps to their new priorities and carried out steps 1
and 2, each in ascending point order (R27, R57, R76, log 18).  `e.config` is the new configuration. -/
structure Alarm.Settled (e : Env) (old : Configuration) (a b : Alarm) : Prop where
  points : ∀ p : PointId, b.points[p] =
    if Disables old e.config p then { a.points[p] with state := .disabled, mark := false, hushed := false, reminder := none }
    else if Resets old e.config a p then { a.points[p] with state := .idle, mark := false, hushed := false, reminder := none }
    else a.points[p]
  lamps : ∀ p : PointId, b.lamps[p] = if Disables old e.config p ∨ Resets old e.config a p then .off else a.lamps[p]
  claims : ∀ p : PointId, b.sounder.claimLevel p = claimOf e.config.points[p] b.points[p]
  channels : b.sounder.ch0 = a.sounder.ch0 ∧ b.sounder.ch1 = a.sounder.ch1
  journal : b.journal = a.journal.appendAll
    (((allPoints.filter fun p => decide (Disables old e.config p)) ++
      allPoints.filter fun p => decide (Resets old e.config a p)).map
        fun p => pointRecord e p a.points[p].state b.points[p] .commit)
  shelf : b.shelf = a.shelf.filter fun n => decide (¬Disables old e.config n.point)
  chatter : ∀ p : PointId, b.chatter[p] =
    if Disables old e.config p ∨ Resets old e.config a p ∨
        old.points[p].chatterLimit ≠ e.config.points[p].chatterLimit
    then ⟨0, none⟩ else a.chatter[p]
  groups : b.groups = a.groups

/-- The set of points that name a group differs between two configurations (R58). -/
abbrev Regrouped (old new : Configuration) (g : GroupId) : Prop :=
  ∃ p : PointId, ¬(old.points[p].group = some g ↔ new.points[p].group = some g)

/-- From `a` to `b` a commit has settled marks and group records (R58). -/
structure Alarm.Recomputed (old new : Configuration) (a b : Alarm) : Prop where
  points : ∀ p : PointId, b.points[p] =
    if old.points[p].group ≠ new.points[p].group ∨ ∃ g, new.points[p].group = some g ∧ Regrouped old new g
    then { a.points[p] with mark := false } else a.points[p]
  lamps : ∀ p : PointId, b.lamps[p] =
    if old.points[p].group ≠ new.points[p].group ∨ ∃ g, new.points[p].group = some g ∧ Regrouped old new g
    then b.points[p].pattern else a.lamps[p]
  groups : ∀ g : GroupId, b.groups[g] =
    let r := { a.groups[g] with members := allPoints.countP fun p => new.points[p].group = some g }
    if a.groupActive new g = false then { r with armed := true, first := none }
    else if Regrouped old new g then { r with armed := false, first := none }
    else r
  sounder : b.sounder = a.sounder
  journal : b.journal = a.journal
  shelf : b.shelf = a.shelf
  chatter : b.chatter = a.chatter

/-- A reminder after a commit, for a point that ends the entry passes with record `d` (R27). -/
def reminderApplied (now : Nat) (old new : PointConfig) (d : Point) : Timer :=
  if old.reminderMinutes = new.reminderMinutes then d.reminder
  else if d.reminder ≠ none ∨ old.reminderMinutes = 0 ∧ d.state = .standing ∧ new.sequence ≠ .notice then
    if new.reminderMinutes = 0 then none else some (clockAfter now (new.reminderMinutes * 60000))
  else none

/-! ## The fields of the Stage requests -/

/-- The fields of a record in order: offset and size in characters, and the values its table allows. -/
abbrev FieldTable := List (Nat × Nat × (Nat → Bool))

/-- Every field of the characters `r` lies in its table. -/
def fits (t : FieldTable) (r : List Byte) : Prop := ∀ x ∈ t, x.2.2 (field r x.1 x.2.1) = true

/-- Field `i` of `r`, counting from 0, is the first that is out of its table, and its value is `v`. -/
def firstOut (t : FieldTable) (r : List Byte) (i v : Nat) : Prop :=
  ∃ x, t[i]? = some x ∧ field r x.1 x.2.1 = v ∧ x.2.2 v = false ∧ fits (t.take i) r

/-- The fields of a point record (R1). -/
def pointTable : FieldTable :=
  [ (0, 1, fun v => decide (v ≤ 1)), (1, 1, fun v => decide (v ≤ 2)), (2, 1, fun v => decide (v ≤ 3)),
    (3, 1, fun v => decide (v ≤ 28)), (4, 1, fun v => decide (v ≤ 7 ∨ v = 255)),
    (5, 1, fun v => decide (v ≤ 95 ∨ v = 255)), (6, 1, fun v => decide (v = 0 ∨ 2 ≤ v ∧ v ≤ 15)),
    (7, 1, fun v => decide (1 ≤ v ∧ v ≤ 240)), (8, 1, fun v => decide (v ≤ 240)), (9, 1, fun _ => true) ]

/-- The fields of a line record (R30). -/
def lineTable : FieldTable :=
  [(0, 1, fun v => decide (v ≤ 1)), (1, 1, fun v => decide (1 ≤ v ∧ v ≤ 64)), (2, 1, fun v => decide (1 ≤ v ∧ v ≤ 64))]

/-- The fields of a tone record by its profile (R78). -/
def toneTable : ProfileId → FieldTable
  | .level _ =>
    [ (0, 2, fun v => decide (200 ≤ v ∧ v ≤ 5000 ∧ v % 10 = 0)),
      (2, 2, fun v => decide (v = 0 ∨ 200 ≤ v ∧ v ≤ 5000 ∧ v % 10 = 0)),
      (4, 2, fun v => decide (50 ≤ v ∧ v ≤ 5000 ∧ v % 50 = 0)), (6, 2, fun v => decide (v ≤ 5000 ∧ v % 50 = 0)),
      (8, 1, fun v => decide (1 ≤ v ∧ v ≤ 15)), (9, 1, fun v => decide (1 ≤ v ∧ v ≤ 15)), (10, 1, fun v => decide (v ≤ 60)) ]
  | .chirp =>
    [ (0, 2, fun v => decide (200 ≤ v ∧ v ≤ 5000 ∧ v % 10 = 0)), (2, 2, fun v => decide (20 ≤ v ∧ v ≤ 500)),
      (4, 1, fun v => decide (1 ≤ v ∧ v ≤ 15)) ]
  | .test =>
    [ (0, 2, fun v => decide (200 ≤ v ∧ v ≤ 5000 ∧ v % 10 = 0)),
      (2, 2, fun v => decide (v = 0 ∨ 200 ≤ v ∧ v ≤ 5000 ∧ v % 10 = 0)),
      (4, 2, fun v => decide (50 ≤ v ∧ v ≤ 5000 ∧ v % 50 = 0)), (6, 2, fun v => decide (v ≤ 5000 ∧ v % 50 = 0)),
      (8, 1, fun v => decide (1 ≤ v ∧ v ≤ 15)) ]

/-- The field of a relay record (R113). -/
def relayTable : FieldTable := [(0, 1, fun v => decide (v ≤ 3))]

/-- The fields of a link record (R145). -/
def linkTable : FieldTable := [(0, 1, fun v => decide (v ≤ 2)), (1, 1, fun v => decide (v ≤ 60))]

/-- The fields of the global record (R145). -/
def globalTable : FieldTable :=
  [ (0, 2, fun v => decide (10 ≤ v ∧ v ≤ 600)), (2, 1, fun v => decide (v ≤ 1)), (3, 1, fun v => decide (v ≤ 1)),
    (4, 1, fun v => decide (v ≤ 1)), (5, 1, fun v => decide (v ≤ 1)), (6, 1, fun v => decide (v ≤ 1)),
    (7, 1, fun v => decide (v ≤ 1)) ]

/-! ## Restarts -/

/-- From `s` to `t` a commit check that runs has been abandoned for a Restart from link `l`: the holder's Commit is
answered ABANDONED, at the end of its reply queue (R157, R160, log 24). -/
def Part.StopsCheck (l : LinkId) (s t : Part) : Prop :=
  s.manager.check = none ∧ t = s ∨
  ∃ (h : LinkId) (g : Frame) (d : Nat), h ≠ l ∧ s.manager.check = some d ∧ s.manager.holder = some h ∧
    (s.link h).executing = some g ∧
    t = { s.setLink h { s.link h with
            executing := none
            replies := (s.link h).replies ++ [⟨g.tag, g.kind, { status := .abandoned }⟩]
            cache := if g.tag = 0 then (s.link h).cache
              else some ⟨g.tag, g.kind, g.crc, ⟨g.tag, g.kind, { status := .abandoned }⟩⟩ } with
          manager := { s.manager with check := none } }

/-! ## The Journal -/

/-- Between two states of the Journal exactly these records were taken, in this order (R119). -/
def Journal.Took (j j' : Journal) (bs : List RecordBody) : Prop :=
  j'.ring = (j.appendAll bs).ring ∧ j'.nextSeq = (j.appendAll bs).nextSeq

/-- Records that follow one another along the numbering, the newest just before `next` (R121). -/
def consecutive (next : Nat) : List Record → Prop
  | [] => True
  | [r] => seqAfter r.seq = next
  | r :: r' :: rest => seqAfter r.seq = r'.seq ∧ consecutive next (r' :: rest)

/-- A sequence number (R120). -/
def isSeq (n : Nat) : Prop := 1 ≤ n ∧ n ≤ Config.maxSeq

/-- The law of the ring (R120, R121): 1 to 1024 records, consecutive up to the next sequence number. -/
structure Journal.RingLaw (j : Journal) : Prop where
  nonempty : j.ring ≠ []
  size : j.ring.length ≤ Config.ringSize
  next : isSeq j.nextSeq
  numbers : ∀ r ∈ j.ring, isSeq r.seq
  inOrder : consecutive j.nextSeq j.ring

/-- The law of a stream record (R132, R135): unsubscribed it holds 1, 0 and none; subscribed its cursor lies on a record of
the ring or on the next number; its credits are at most 64; a gap counts the records from its first lost number up to the
cursor, or 65 535 when more were lost. -/
structure Journal.StreamLaw (j : Journal) (l : LinkId) : Prop where
  unsubscribed : (j.stream l).subscribed = false → j.stream l = {}
  cursor : isSeq (j.stream l).cursor
  onArc : (j.stream l).subscribed = true → seqSteps (j.stream l).cursor j.nextSeq ≤ j.ring.length
  credits : (j.stream l).credits ≤ Config.maxCredits
  gap : ∀ g, (j.stream l).gap = some g → isSeq g.first ∧ 1 ≤ g.count ∧ g.count ≤ 65535 ∧
    (g.count < 65535 → seqSteps g.first (j.stream l).cursor = g.count)

/-- The laws of the Journal. -/
structure Journal.Law (j : Journal) : Prop where
  ring : j.RingLaw
  streamA : j.StreamLaw .a
  streamB : j.StreamLaw .b

/-! ## The laws of the other blocks -/

/-- The laws of a link's queues: at most 4 frames waiting, at most 8 reply places taken (R170, R171). -/
def Link.QueueLaw (k : Link) : Prop := k.waiting.length ≤ Config.receivePlaces ∧ k.placesTaken ≤ Config.replyPlaces

/-- The laws of both links' queues. -/
def Part.QueueLaw (s : Part) : Prop := s.linkA.QueueLaw ∧ s.linkB.QueueLaw

/-- The laws of the session lock (R147): staging and a session id are present exactly while a link holds the session, a
check runs only for a holder, and the holder's link has CONFIGURE. -/
structure Part.SessionLaw (s : Part) : Prop where
  staging : s.manager.staging.isSome = s.manager.holder.isSome
  id : s.manager.sessionId = 0 ↔ s.manager.holder = none
  check : s.manager.check ≠ none → s.manager.holder ≠ none
  executing : ∀ l, (s.link l).executing.isSome = (s.manager.check.isSome && s.manager.heldBy l)
  authority : ∀ l, s.manager.holder = some l → (s.active.link l).authority = .configure

/-- Each block's copies agree with the active configuration (R30, R78, R86, R159, R179). -/
structure Part.CopyLaw (s : Part) : Prop where
  lines : ∀ n : LineId, s.lines[n].config = s.active.lines[n]
  tones : s.alarm.sounder.tones = s.active.tones
  dual : s.alarm.sounder.dual = s.active.global.dual
  linkA : s.linkA.authority = s.active.linkA.authority ∧ s.linkA.heartbeat = s.active.linkA.heartbeat
  linkB : s.linkB.authority = s.active.linkB.authority ∧ s.linkB.heartbeat = s.active.linkB.heartbeat

/-- Every field lies in its table (R1, R30, R78, R145). -/
structure Configuration.InTables (c : Configuration) : Prop where
  points : ∀ p : PointId, (c.points[p].chatterLimit = 0 ∨ 2 ≤ c.points[p].chatterLimit ∧ c.points[p].chatterLimit ≤ 15) ∧
    1 ≤ c.points[p].chatterShelveMinutes ∧ c.points[p].chatterShelveMinutes ≤ 240 ∧ c.points[p].reminderMinutes ≤ 240
  lines : ∀ n : LineId, 1 ≤ c.lines[n].onCount ∧ c.lines[n].onCount ≤ 64 ∧ 1 ≤ c.lines[n].offCount ∧ c.lines[n].offCount ≤ 64
  levels : ∀ l : Level, pitchOk (c.tones.level l).pitchA = true ∧ pitchBOk (c.tones.level l).pitchB = true ∧
    onTimeOk (c.tones.level l).onTime = true ∧ offTimeOk (c.tones.level l).offTime = true ∧
    1 ≤ (c.tones.level l).startLoudness ∧ (c.tones.level l).startLoudness ≤ 15 ∧
    1 ≤ (c.tones.level l).endLoudness ∧ (c.tones.level l).endLoudness ≤ 15 ∧ (c.tones.level l).stepInterval ≤ 60
  chirp : pitchOk c.tones.chirp.pitch = true ∧ 20 ≤ c.tones.chirp.duration ∧ c.tones.chirp.duration ≤ 500 ∧
    1 ≤ c.tones.chirp.loudness ∧ c.tones.chirp.loudness ≤ 15
  test : pitchOk c.tones.test.pitchA = true ∧ pitchBOk c.tones.test.pitchB = true ∧ onTimeOk c.tones.test.onTime = true ∧
    offTimeOk c.tones.test.offTime = true ∧ 1 ≤ c.tones.test.loudness ∧ c.tones.test.loudness ≤ 15
  links : ∀ l : LinkId, (c.link l).heartbeat ≤ 60
  window : 10 ≤ c.global.chatterWindow ∧ c.global.chatterWindow ≤ 600

/-- The laws of the two configurations (R1, R30, R78, R145, R146, R149, R155): every field in its table, the active one
passes C1 to C4, and it is exactly the defaults while the part is UNCONFIGURED. -/
structure Part.ConfigLaw (s : Part) : Prop where
  active : s.active.InTables
  staging : ∀ c, s.manager.staging = some c → c.InTables
  checked : s.active.c1 = none ∧ s.active.c2 = none ∧ s.active.c3 = none ∧ s.active.c4 = none
  unconfigured : s.manager.mode = .unconfigured → s.active = {}

/-- The law of the shelf table (R62): at most 16 entries, never two for one point, and a point is SHELVED exactly when the
table holds an entry for it. -/
structure Alarm.ShelfLaw (a : Alarm) : Prop where
  size : a.shelf.length ≤ Config.shelfSize
  once : (a.shelf.map ShelfEntry.point).Nodup
  shelved : ∀ p : PointId, a.points[p].state = .shelved ↔ p ∈ a.shelf.map ShelfEntry.point

/-- A point is DISABLED exactly when its active record is not enabled (R3). -/
def Alarm.EnabledLaw (c : Configuration) (a : Alarm) : Prop :=
  ∀ p : PointId, a.points[p].state = .disabled ↔ c.points[p].enabled = false

/-- What holds of a point by itself (R6, R16, R17, R47, R53): hushed only in ALERTING, marked only in an active state, the
reminder running only in STANDING, an occurrence number from 1 to 65 535 in the active states and SUPPRESSED, and ABNORMAL
throughout SUPPRESSED. -/
structure Point.Law (d : Point) : Prop where
  hushed : d.hushed = true → d.state = .alerting
  mark : d.mark = true → d.state.active = true
  reminder : d.reminder ≠ none → d.state = .standing
  occurrence : d.occurrence ≤ 65535
  begun : d.state.active = true ∨ d.state = .suppressed → 1 ≤ d.occurrence
  suppressed : d.state = .suppressed → d.abnormal = true

/-- The laws of the point table: each point's, and a point SUPPRESSED only while its suppressor is active (R12). -/
structure Alarm.PointLaw (c : Configuration) (a : Alarm) : Prop where
  each : ∀ p : PointId, a.points[p].Law
  suppressed : ∀ p : PointId, a.points[p].state = .suppressed → a.suppressorActive c p = true

/-- The sequences whose tables list a point's state (R9, R10, R11), and no reminder for a NOTICE point (R16). -/
structure Alarm.SequenceLaw (c : Configuration) (a : Alarm) : Prop where
  alerting : ∀ p : PointId, a.points[p].state = .alerting → c.points[p].sequence ≠ .notice
  awaitReset : ∀ p : PointId, a.points[p].state = .awaitReset → c.points[p].sequence = .hold
  returned : ∀ p : PointId, a.points[p].state = .returned → c.points[p].sequence = .follow
  notice : ∀ p : PointId, c.points[p].sequence = .notice → a.points[p].reminder = none

/-- The order of the shelf table (R62, R63): earliest expiry first, and none further ahead than 1440 minutes. -/
structure Alarm.ShelfOrderLaw (a : Alarm) : Prop where
  inOrder : (a.shelf.map fun n => timeLeft a.journal.elapsed n.expiry).Pairwise (· ≤ ·)
  ahead : ∀ n ∈ a.shelf,
    (n.expiry + Config.clockModulus - a.journal.elapsed % Config.clockModulus) % Config.clockModulus ≤ 86400000

/-- The law of the Condition Resolver (R4, R36, R44): each point's condition is its source's reading, the Sequence Engine's
copy agrees with it, and an assertion is held only where the point's source reads its link. -/
structure Part.ResolverLaw (s : Part) : Prop where
  condition : ∀ p : PointId, s.conditions[p].abnormal = (match s.active.points[p].source with
    | .line n => s.lines[n].abnormal
    | .msg l => s.conditions[p].by l
    | .msgAny => s.conditions[p].byA || s.conditions[p].byB
    | .silent l => decide ((s.link l).state = .silent))
  copy : ∀ p : PointId, s.alarm.points[p].abnormal = s.conditions[p].abnormal
  assertions : ∀ (p : PointId) (l : LinkId), s.conditions[p].by l = true →
    s.active.points[p].source = .msgAny ∨ s.active.points[p].source = .msg l

/-- Each relay is as its mode and inputs put it (R113). -/
def Part.RelayLaw (s : Part) : Prop := ∀ r : RelayId, s.panel.relays[r] = s.relayOn r

/-- A group is armed exactly when none of its members is in an active state (R50). -/
def Alarm.GroupLaw (c : Configuration) (a : Alarm) : Prop := ∀ g : GroupId, a.groups[g].armed = !a.groupActive c g

/-- The lamp image shows each point's pattern (R19, R110). -/
def Alarm.LampLaw (a : Alarm) : Prop := ∀ p : PointId, a.lamps[p] = a.points[p].pattern

/-- The claim lists hold exactly the points that claim by R18, each once, at its priority (R83). -/
structure Alarm.ClaimLaw (c : Configuration) (a : Alarm) : Prop where
  once : ((a.sounder.claims3 ++ a.sounder.claims2 ++ a.sounder.claims1).map Claim.point).Nodup
  claims : ∀ p : PointId, a.sounder.claimLevel p = claimOf c.points[p] a.points[p]

/-- A channel against its target (R84): outside test it plays a level exactly when that level is its target. -/
structure Channel.Assigned (target : Option Level) (c : Channel) : Prop where
  level : ∀ l, c.mode = .level l ↔ target = some l
  noTest : c.mode ≠ .test

/-- A chirp timer runs only on a channel that chirps (R85, R90). -/
def Channel.TimerLaw (c : Channel) : Prop := c.chirpTimer ≠ none → c.mode = .chirp

/-- The law of the channels (R84, R90, R96): during test both play TEST, otherwise each plays its target. -/
structure Sounder.ChannelLaw (test : Bool) (s : Sounder) : Prop where
  timer0 : s.ch0.TimerLaw
  timer1 : s.ch1.TimerLaw
  testing : test = true → s.ch0.mode = .test ∧ s.ch1.mode = .test
  assigned : test = false → s.ch0.Assigned s.target0 ∧ s.ch1.Assigned s.target1

/-- The laws of the Sequence Engine, the Shelf Unit, the lamp image and the Sounder Controller, taken together. -/
structure Part.AlarmLaw (s : Part) : Prop where
  enabled : s.alarm.EnabledLaw s.active
  groups : s.alarm.GroupLaw s.active
  shelf : s.alarm.ShelfLaw
  lamps : s.alarm.LampLaw
  claims : s.alarm.ClaimLaw s.active
  channels : s.alarm.sounder.ChannelLaw s.panel.testSet.active

end Sys2Proof.Machine
end

