-- ==== Sys2Proof/WellFormed.lean ====
section
/-! DEFINITION. Which commands are well formed.  Every operand but a point number is of a type that holds exactly the
spec's values; a point number must name one of the 96 points (00_scope section 7). -/

namespace Sys2Proof

/-- The operands of a command lie in their ranges. -/
def Instr.wellFormed : Instr → Bool
  | .reminderExpiry p => decide (p < 96)
  | .chatterWindowExpiry p => decide (p < 96)
  | _ => true

end Sys2Proof
end

