-- ==== Sys2Proof/Certificates/Slice0/Obligations.lean ====
section
/-! DEFINITION. The statements for the provers. -/

open Sys2Proof Sys2Proof.Machine

/-! ## The machine's steps -/

/-- With a command at the front of the queue, a step is `exec` of it on the state with the queue's rest. -/
def Obligations.StepRunsFrontCommand : Prop := ∀ (c : Instr) (s : State), step (s.withCommand c) = exec c s

/-- With an empty queue a step takes one of the things that are due, or, with nothing due, lets a millisecond pass (the
model's choice, log 1; which of several due things is free, log 7): the frames whose gap timer expires at the ending
count are abandoned and counted (log 16), the part clock and the elapsed count go on by one modulo 2^48 (the elapsed
count's wrap is log 14), the flash phase by one modulo 1000, and nothing else changes. What is due: the oldest waiting
frame that a link may execute, and every timer that has run out; a line scan and a key's sample read the levels that
stand at the lines (log 21). A timer started for d at count c is due at c plus d and not before. -/
def Obligations.EmptyQueueDoesDueWorkOrTime : Prop :=
  (∀ s : State, s.pending = [] →
    let now := s.alarm.journal.elapsed
    let ended (k : Link) : Link := if Timer.due now k.gapTimer = true
      then { k with
        framer := .hunt, gapTimer := none
        framingErrors := if k.framingErrors + 1 < 65535 then k.framingErrors + 1 else 65535 }
      else k
    (s.dueCommands = [] → step s = s.becomes { s.toPart with
      linkA := ended s.linkA, linkB := ended s.linkB
      alarm := { s.alarm with journal := { s.alarm.journal with
        clock := (s.alarm.journal.clock + 1) % 281474976710656, elapsed := (now + 1) % 281474976710656 } }
      panel := { s.panel with flash := (s.panel.flash + 1) % 1000 } }) ∧
    (s.dueCommands ≠ [] → ∃ c ∈ s.dueCommands, step s = exec c { s with free := s.free + 1 }) ∧
    (∀ c, c ∈ s.dueCommands ↔
      (∃ l f, (s.link l).nextFrame = some f ∧ c = frameCommand l f) ∨
      (∃ l, c = .supervisionExpiry l ∧ (s.link l).state = .live ∧ Timer.due now (s.link l).supervision = true) ∨
      (∃ l, c = .messageTestExpiry l ∧ Timer.due now (s.panel.testTimer l) = true) ∨
      (∃ k, c = .keySample k (s.keyLine k).level ∧ Timer.due now (s.keyLine k).sample = true) ∨
      (∃ k, c = .keySteadyExpiry k ∧ Timer.due now (s.panel.key k).steady = true) ∨
      (∃ h, c = .cadencePhaseExpiry h ∧ Timer.due now (s.channel h).cadence = true) ∨
      (∃ h, c = .escalationStep h ∧ Timer.due now (s.channel h).escalation = true) ∨
      (∃ h, c = .chirpTimerExpiry h ∧ Timer.due now (s.channel h).chirpTimer = true) ∨
      (c = .shelfExpiry ∧ ∃ n rest, s.alarm.shelf = n :: rest ∧ timeLeft now n.expiry = 0) ∨
      (c = .commitCheckCompletion ∧ Timer.due now s.manager.check = true) ∨
      (c = .lineScan s.inputs ∧ Timer.due now s.scanTimer = true) ∨
      (c = .lampRefresh ∧ Timer.due now s.panel.refresh = true) ∨
      (∃ p : PointId, c = .reminderExpiry p.val ∧ s.alarm.points[p].state = .standing ∧
        Timer.due now s.alarm.points[p].reminder = true) ∨
      (∃ p : PointId, c = .chatterWindowExpiry p.val ∧ Timer.due now s.alarm.chatter[p].window = true))) ∧
  (∀ c d e : Nat, c < 281474976710656 → d < 140737488355328 → e ≤ d →
    (Timer.due (clockAfter c e) (some (clockAfter c d)) = true ↔ e = d))

/-- Every well-formed command completes in every state and leaves the queue alone; a command that names a point the
part does not have stops with its fault (log 26). -/
def Obligations.CommandsCompleteExactlyWhenWellFormed : Prop :=
  ∀ (c : Instr) (s : State),
    (c.wellFormed = true → ∃ t, exec c s = s.becomes t) ∧ (c.wellFormed = false → exec c s = .fault .noSuchPoint)

/-- A full reset, from any state: every block at the values its chapter gives, every lamp dark, and the straps sampled.
The raw samples of the lines and the channels' copies, pitches and loudnesses, of which the spec gives no value, are not
stated. -/
def Obligations.FullResetGivesEveryDefault : Prop :=
  ∀ (s : State) (p : Straps), ∃ t : Part, exec (.fullReset p) s = s.becomes t ∧
    t.active = {} ∧
    t.manager = ⟨.unconfigured, none, 0, 0, none, none, none⟩ ∧
    (∀ n : LineId, t.lines[n].abnormal = false ∧ t.lines[n].run = 0 ∧ t.lines[n].config = ⟨.activeLow, 20, 20⟩) ∧
    (∀ q : PointId, t.conditions[q] = ⟨false, false, false⟩) ∧
    (∀ q : PointId, t.alarm.points[q] = ⟨.disabled, false, 0, false, false, 0, none⟩) ∧
    (∀ g : GroupId, t.alarm.groups[g] = ⟨true, none, 0⟩) ∧
    t.alarm.shelf = [] ∧
    (∀ q : PointId, t.alarm.chatter[q] = ⟨0, none⟩) ∧
    (∀ q : PointId, t.alarm.lamps[q] = .off) ∧
    (∀ c : ChanId, (t.channel c).mode = .idle ∧ (t.channel c).cadence = none ∧ (t.channel c).escalation = none ∧
      (t.channel c).chirpTimer = none ∧ ∀ now, (t.channel c).output now = none) ∧
    (∀ v : Level, t.alarm.sounder.claims v = []) ∧
    t.alarm.sounder.tones = {} ∧ t.alarm.sounder.dual = false ∧ t.alarm.sounder.dropped = 0 ∧
    (∀ k : KeyId, t.panel.key k = ⟨.high, false, none⟩) ∧
    t.panel.testSet = ⟨false, false, false⟩ ∧ t.panel.testTimerA = none ∧ t.panel.testTimerB = none ∧
    t.panel.flash = 0 ∧ (∀ q : PointId, t.panel.drivers[q] = false) ∧ (∀ r : RelayId, t.panel.relays[r] = false) ∧
    t.alarm.journal.ring = [⟨1, 0, .elapsed, { kind := .startCold, origin := .part }⟩] ∧ t.alarm.journal.nextSeq = 2 ∧
    t.alarm.journal.clock = 0 ∧ t.alarm.journal.basis = .elapsed ∧ t.alarm.journal.elapsed = 0 ∧
    (∀ l : LinkId, t.alarm.journal.stream l = ⟨false, 1, 0, none⟩) ∧
    (∀ l : LinkId, t.link l = ⟨.hunt, none, [], none, false, [], none, .down, none, 0, none, 0, 0, 0, .configure, 0⟩) ∧
    t.baud = (match p.baud1, p.baud0 with
      | .low, .low => .b19200
      | .low, .high => .b57600
      | .high, .low => .b115200
      | .high, .high => .b230400)

/-- The state after reset has every law that the statements at the end say each step keeps. -/
def Obligations.ResetHasEveryLaw : Prop :=
  State.reset.alarm.journal.Law ∧ State.reset.QueueLaw ∧ State.reset.SessionLaw ∧ State.reset.CopyLaw ∧
    State.reset.AlarmLaw ∧ State.reset.alarm.PointLaw State.reset.active ∧ State.reset.ConfigLaw ∧
    State.reset.alarm.SequenceLaw State.reset.active ∧ State.reset.alarm.ShelfOrderLaw ∧ State.reset.ResolverLaw ∧
    State.reset.RelayLaw

/-! ## How a request is executed -/

/-- A request row whose link has no frame of its kind to execute, and an event row whose timer is not due, change
nothing (the model's choice, log 2), but that the levels a LINE_SCAN or a KEY_SAMPLE presents stand at the lines from
then on (log 21). -/
def Obligations.RowsWithoutTheirConditionChangeNothing : Prop :=
  ∀ (s : State) (l : LinkId),
    (∀ (k : RequestKind) (body : List Byte),
      (∀ f, (s.link l).nextFrame = some f → RequestKind.ofCode f.kind ≠ some k) →
        exec (requestCommand l body k) s = s.becomes s.toPart) ∧
    ((∀ f, (s.link l).nextFrame = some f → RequestKind.ofCode f.kind ≠ none) →
      exec (.unknownKind l) s = s.becomes s.toPart) ∧
    (Timer.due s.alarm.journal.elapsed (s.link l).gapTimer = false →
      exec (.intraFrameGapExpiry l) s = s.becomes s.toPart) ∧
    (s.silenceDue l = false → exec (.supervisionExpiry l) s = s.becomes s.toPart) ∧
    (Timer.due s.alarm.journal.elapsed (s.panel.testTimer l) = false →
      exec (.messageTestExpiry l) s = s.becomes s.toPart) ∧
    (∀ k, Timer.due s.alarm.journal.elapsed (s.panel.key k).steady = false →
      exec (.keySteadyExpiry k) s = s.becomes s.toPart) ∧
    (∀ p : PointId, s.reminderDue p = false → exec (.reminderExpiry p.val) s = s.becomes s.toPart) ∧
    (∀ p : PointId, Timer.due s.alarm.journal.elapsed s.alarm.chatter[p].window = false →
      exec (.chatterWindowExpiry p.val) s = s.becomes s.toPart) ∧
    (s.alarm.shelfDue = none → exec .shelfExpiry s = s.becomes s.toPart) ∧
    (Timer.due s.alarm.journal.elapsed s.manager.check = false →
      exec .commitCheckCompletion s = s.becomes s.toPart) ∧
    (∀ c, Timer.due s.alarm.journal.elapsed (s.channel c).cadence = false →
      exec (.cadencePhaseExpiry c) s = s.becomes s.toPart) ∧
    (∀ c, Timer.due s.alarm.journal.elapsed (s.channel c).escalation = false →
      exec (.escalationStep c) s = s.becomes s.toPart) ∧
    (∀ c, Timer.due s.alarm.journal.elapsed (s.channel c).chirpTimer = false →
      exec (.chirpTimerExpiry c) s = s.becomes s.toPart) ∧
    (∀ levels, Timer.due s.alarm.journal.elapsed s.scanTimer = false →
      exec (.lineScan levels) s = s.becomes { s.toPart with inputs := levels }) ∧
    (∀ k w, Timer.due s.alarm.journal.elapsed (s.keyLine k).sample = false →
      exec (.keySample k w) s = s.becomes (s.setKeyLine k { s.keyLine k with level := w })) ∧
    (Timer.due s.alarm.journal.elapsed s.panel.refresh = false → exec .lampRefresh s = s.becomes s.toPart) ∧
    (∀ p, (s.link l).sending = none → exec (.transmitComplete l p) s = s.becomes s.toPart)

/-- The checks common to all requests, made in order on a frame that is not answered from the cache: a KIND that is no
request kind gets UNKNOWN_KIND, then a body of the wrong length LENGTH, then a kind outside the link's authority
DENIED; each such reply has no body, and nothing else changes. -/
def Obligations.CommonChecksRefuseInOrder : Prop :=
  ∀ (s : State) (l : LinkId) (f : Frame), (s.link l).nextFrame = some f → (s.link l).cachedReply f = none →
    (RequestKind.ofCode f.kind = none → exec (.unknownKind l) s = s.becomes (s.answered l f (refuse .unknownKind))) ∧
    (∀ k, RequestKind.ofCode f.kind = some k → k.lengthOk f.body = false →
      exec (requestCommand l f.body k) s = s.becomes (s.answered l f (refuse .length))) ∧
    (∀ k, RequestKind.ofCode f.kind = some k → k.lengthOk f.body = true →
      (s.link l).authority.code < k.needs.code →
      exec (requestCommand l f.body k) s = s.becomes (s.answered l f (refuse .denied)))

/-- What every answer leaves behind, whatever the owning block did before it: the reservation turns into the reply, at
the end of the reply queue (that a BUSY reply placed while the reservation stood comes before it is the model's choice,
log 24), a request whose TAG is not 0 becomes the cache entry, no frame is in execution, and
nothing else changes but what the transmitters then take. A frame whose non-zero TAG, KIND and CRC all equal those of
the last-reply cache is not executed: the cached reply is placed again with REPEAT added to the flags it had, the
cache stays, and nothing else changes but what the transmitters then take. -/
def Obligations.AnswersAndRetriesTakeTheReservedPlace : Prop :=
  (∀ (m : Part) (l : LinkId) (f : Frame) (ans : Answer),
    (m.conclude l f ans).quiet = (m.setLink l { m.link l with
      executing := none
      replies := (m.link l).replies ++ [⟨f.tag, f.kind, ans⟩]
      cache := if f.tag = 0 then (m.link l).cache else some ⟨f.tag, f.kind, f.crc, ⟨f.tag, f.kind, ans⟩⟩ }).quiet) ∧
  (∀ (s : State) (l : LinkId) (f : Frame) (c : CacheEntry), (s.link l).nextFrame = some f → (s.link l).cache = some c →
    f.tag ≠ 0 → c.tag = f.tag → c.kind = f.kind → c.crc = f.crc →
    ∃ t r, exec (frameCommand l f) s = s.becomes t ∧
      r.tag = c.reply.tag ∧ r.kind = c.reply.kind ∧ r.answer.status = c.reply.answer.status ∧
      r.answer.data = c.reply.answer.data ∧ r.answer.flags = { c.reply.answer.flags with repeated := true } ∧
      t.quiet = (s.setLink l { s.link l with
        waiting := (s.link l).waiting.tail, executing := none, replies := (s.link l).replies ++ [r] }).quiet)

/-- A transmitter's choice: busy, it takes nothing; free, it takes the oldest waiting reply; with none waiting it takes
the report its own stream offers, which costs a credit and clears a pending gap or moves the cursor; otherwise it stays
free. TRANSMIT_COMPLETE: a report or a reply that has left frees the transmitter, a reply its place too, and the
transmitters choose; the reply of a Restart with COLD brings the full reset, with the straps sampled then. That a reply
keeps its place until its last character has left is the model's reading (log 10), and so is that both transmitters
choose at the end of the command (log 9). -/
def Obligations.TransmittersChooseAndFree : Prop :=
  (∀ (s : Part) (l : LinkId),
    ((s.link l).sending ≠ none → s.transmit l = s) ∧
    (∀ r rs, (s.link l).sending = none → (s.link l).replies = r :: rs →
      s.transmit l = s.setLink l { s.link l with sending := some ⟨r.chars, true, r.answer.resets⟩ }) ∧
    ((s.link l).sending = none → (s.link l).replies = [] → s.alarm.journal.offers l = false → s.transmit l = s) ∧
    (∀ g, (s.link l).sending = none → (s.link l).replies = [] → s.alarm.journal.offers l = true →
      (s.alarm.journal.stream l).gap = some g →
      s.transmit l = (s.setStream l
          { s.alarm.journal.stream l with gap := none, credits := (s.alarm.journal.stream l).credits - 1 }).setLink l
        { s.link l with sending := some ⟨reportChars
          ⟨g.first, s.alarm.journal.clock, s.alarm.journal.basis,
            { kind := .gap, origin := .part, detail := some (if g.count < 65535 then g.count else 65535) }⟩
          ((s.alarm.journal.stream l).credits - 1), false, false⟩ }) ∧
    (∀ r, s.alarm.journal.Law → (s.link l).sending = none → (s.link l).replies = [] →
      s.alarm.journal.offers l = true → (s.alarm.journal.stream l).gap = none →
      r ∈ s.alarm.journal.ring → r.seq = (s.alarm.journal.stream l).cursor →
      s.transmit l = (s.setStream l
          { s.alarm.journal.stream l with
            cursor := seqAfter r.seq, credits := (s.alarm.journal.stream l).credits - 1 }).setLink l
        { s.link l with sending := some ⟨reportChars r ((s.alarm.journal.stream l).credits - 1), false, false⟩ })) ∧
  (∀ (s : State) (l : LinkId) (p : Straps) (x : Sending), (s.link l).sending = some x →
    (x.resets = false → x.isReply = true → exec (.transmitComplete l p) s = s.becomes
      (s.setLink l { s.link l with sending := none, replies := (s.link l).replies.tail }).serve) ∧
    (x.resets = false → x.isReply = false → exec (.transmitComplete l p) s = s.becomes
      (s.setLink l { s.link l with sending := none }).serve) ∧
    (x.resets = true → exec (.transmitComplete l p) s = exec (.fullReset p) s))

/-! ## Requests that read -/

/-- Ping is answered OK with no data, and nothing else changes. -/
def Obligations.PingAnswersOk : Prop :=
  ∀ (s : State) (l : LinkId) (f : Frame), s.Ready l .ping f →
    exec (.ping l) s = s.becomes (s.answered l f { status := .ok })

/-- Read Point answers the records of `count` points from `first` on; a first point above 95 is refused naming field
1, a count outside 1 to 16, or one that runs past 95, naming field 2. A point's record is 12 characters: its number,
state, flags, sequence and priority, occurrence, entry stamp and the reminder's remaining seconds. -/
def Obligations.ReadPointAnswersTheRun : Prop :=
  (∀ (s : Part) (p : PointId),
    let c := s.active.points[p]
    let d := s.alarm.points[p]
    s.pointStatus p = be 1 p.val ++
      be 1 (match d.state with
        | .disabled => 0 | .idle => 1 | .alerting => 2 | .standing => 3 | .returned => 4 | .awaitReset => 5
        | .suppressed => 6 | .shelved => 7) ++
      be 1 ((if d.abnormal then 1 else 0) + (if c.enabled then 2 else 0) + (if d.mark then 4 else 0) +
        (if d.hushed then 8 else 0) +
        (if d.state = .alerting ∧ d.hushed = false ∧ c.priority ≠ .mute then 16 else 0)) ++
      be 1 ((match c.sequence with | .hold => 0 | .follow => 16 | .notice => 32) +
        (match c.priority with | .mute => 0 | .low => 1 | .high => 2 | .urgent => 3)) ++
      be 2 d.occurrence ++ be 4 d.entryStamp ++
      be 2 (match d.reminder with
        | none => 0
        | some x => (timeLeft s.alarm.journal.elapsed x + 999) / 1000)) ∧
  ∀ (s : State) (l : LinkId) (f : Frame) (first count : Nat), s.Ready l .readPoint f →
    field f.body 0 1 = first → field f.body 1 1 = count →
    (1 ≤ count → count ≤ 16 → first + count ≤ 96 → exec (.readPoint l) s = s.becomes (s.answered l f
      (okAnswer (be 1 count ++ ((allPoints.drop first).take count).flatMap s.pointStatus)))) ∧
    (95 < first → exec (.readPoint l) s = s.becomes (s.answered l f (refuse .range (be 1 1 ++ be 4 first)))) ∧
    (first ≤ 95 → (count = 0 ∨ 16 < count ∨ 96 < first + count) →
      exec (.readPoint l) s = s.becomes (s.answered l f (refuse .range (be 1 2 ++ be 4 count))))

/-- The requests with an empty body that read the part answer what stands in it, in the catalogue's order, and change
nothing else; a shelving's remaining time is at least 1 second, also where its expiry is reached and not yet taken
(log 23). -/
def Obligations.ReadsAnswerWhatStands : Prop :=
  ∀ (s : State) (l : LinkId) (f : Frame),
    let claimed (v : Level) : Bool := allPoints.any fun p => decide (s.alarm.points[p].state = .alerting ∧
      s.alarm.points[p].hushed = false ∧ s.active.points[p].priority.code = v.code)
    let x := s.alarm.sounder
    let channel (c : Channel) : List Byte :=
      be 1 (match c.mode with | .idle => 0 | .level _ => 1 | .chirp => 2 | .test => 3) ++
      be 1 (match c.mode with | .level v => v.code | _ => 0) ++ be 1 (if c.mode = .idle then 0 else c.loudness) ++
      be 2 (if c.mode = .idle ∨ c.phaseOn = false then 0 else match c.copy, c.pitch with
        | .level t, .a => t.pitchA
        | .level t, .b => t.pitchB
        | .test t, .a => t.pitchA
        | .test t, .b => t.pitchB
        | .chirp t, _ => t.pitch)
    let list (cs : List Claim) : List Byte := be 1 cs.length ++ (match cs.getLast? with
      | none => be 1 255 ++ be 4 0
      | some y => be 1 y.point.val ++ be 4 y.stamp)
    (s.Ready l .readSummary f → exec (.readSummary l) s = s.becomes (s.answered l f (okAnswer
      (be 1 s.manager.mode.code ++
        [PointState.disabled, .idle, .alerting, .standing, .returned, .awaitReset, .suppressed, .shelved].flatMap
          (fun t => be 1 (allPoints.countP fun p => s.alarm.points[p].state = t)) ++
        be 1 ((if claimed .low then 2 else 0) + (if claimed .high then 4 else 0) + (if claimed .urgent then 8 else 0)) ++
        be 4 (seqBefore s.alarm.journal.nextSeq))))) ∧
    (s.Ready l .readLines f → exec (.readLines l) s = s.becomes (s.answered l f (okAnswer
      (allLines.flatMap fun n =>
        be 1 ((if s.lines[n].raw = .high then 1 else 0) + (if s.lines[n].abnormal then 2 else 0)) ++
          be 1 s.lines[n].run)))) ∧
    (s.Ready l .readGroups f → exec (.readGroups l) s = s.becomes (s.answered l f (okAnswer
      (allGroups.flatMap fun g =>
        be 1 (if s.alarm.groups[g].armed then 1 else 0) ++ be 1 (orNone s.alarm.groups[g].first) ++
          be 1 s.alarm.groups[g].members ++
          be 1 (allPoints.countP fun p =>
            decide (s.active.points[p].group = some g) && s.alarm.points[p].state.active))))) ∧
    (s.Ready l .readShelf f → exec (.readShelf l) s = s.becomes (s.answered l f (okAnswer
      (be 1 s.alarm.shelf.length ++ s.alarm.shelf.flatMap fun n =>
        be 1 n.point.val ++ be 1 n.origin.code ++ be 2 n.minutes ++
          be 4 (max 1 ((timeLeft s.alarm.journal.elapsed n.expiry + 999) / 1000)))))) ∧
    (s.Ready l .readSounders f → exec (.readSounders l) s = s.becomes (s.answered l f (okAnswer
      (channel x.ch0 ++ channel x.ch1 ++
        be 1 ((if x.claims1 ≠ [] then 2 else 0) + (if x.claims2 ≠ [] then 4 else 0) + (if x.claims3 ≠ [] then 8 else 0)) ++
        list x.claims3 ++ list x.claims2 ++ list x.claims1 ++
        be 1 (yesNo x.dual) ++ be 1 (yesNo s.panel.testSet.active) ++ be 2 x.dropped)))) ∧
    (s.Ready l .readPanel f → exec (.readPanel l) s = s.becomes (s.answered l f (okAnswer
      ([KeyId.ack, .silence, .reset, .test].flatMap (fun k =>
          be 1 ((if (s.panel.key k).raw = .high then 1 else 0) + (if (s.panel.key k).pressed then 2 else 0) +
            (if s.active.global.lock k then 4 else 0))) ++
        be 1 (yesNo s.active.global.keyChirp) ++ be 1 s.panel.testSet.code ++ be 1 (yesNo s.panel.testSet.active) ++
        be 1 (secondsUp (Timer.remaining s.alarm.journal.elapsed s.panel.testTimerA)) ++
        be 1 (secondsUp (Timer.remaining s.alarm.journal.elapsed s.panel.testTimerB)) ++
        allRelays.flatMap fun r => be 1 s.active.relays[r].code ++ be 1 (yesNo s.panel.relays[r])))))

/-- Read Link Status answers the named link's 14 characters, and with the clear flag sets that link's three error
counters to 0 after taking them; a link or a flag out of its table is refused. The characters are the link's state,
epoch, authority, interval, supervision seconds, frames waiting, replies waiting and counters; that the frame in
execution is not among the frames (log 31), and that a reply being sent still counts and a reservation does not (log 10),
are the model's reading. -/
def Obligations.ReadLinkStatusReadsAndClears : Prop :=
  (∀ (now : Nat) (k : Link), k.statusData now =
    be 1 (match k.state with | .down => 0 | .live => 1 | .silent => 2) ++ be 2 k.epoch ++
      be 1 (match k.authority with | .observe => 0 | .operate => 1 | .configure => 2) ++ be 1 k.heartbeat ++
      be 1 (match k.supervision with | none => 0 | some d => (timeLeft now d + 999) / 1000) ++
      be 1 k.waiting.length ++ be 1 k.replies.length ++
      be 2 k.framingErrors ++ be 2 k.crcErrors ++ be 2 k.busyRefusals) ∧
  ∀ (s : State) (l n : LinkId) (f : Frame), s.Ready l .readLinkStatus f →
    (field f.body 0 1 = linkCode n → field f.body 1 1 = 0 → exec (.readLinkStatus l) s = s.becomes
      (s.answered l f (okAnswer (((s.begin l f).link n).statusData s.alarm.journal.elapsed)))) ∧
    (field f.body 0 1 = linkCode n → field f.body 1 1 = 1 → exec (.readLinkStatus l) s = s.becomes
      (((s.begin l f).setLink n { (s.begin l f).link n with framingErrors := 0, crcErrors := 0, busyRefusals := 0 }).conclude
        l f (okAnswer (((s.begin l f).link n).statusData s.alarm.journal.elapsed)))) ∧
    (2 ≤ field f.body 0 1 → exec (.readLinkStatus l) s = s.becomes
      (s.answered l f (refuse .range (be 1 1 ++ be 4 (field f.body 0 1))))) ∧
    (field f.body 0 1 = linkCode n → 2 ≤ field f.body 1 1 → exec (.readLinkStatus l) s = s.becomes
      (s.answered l f (refuse .range (be 1 2 ++ be 4 (field f.body 1 1)))))

/-- Read Active answers the named record of the active configuration to any link; Read Staged answers the staged
record and whether it differs to the holder, and NO_SESSION to any other link; a set or name out of its table is
refused. That Read Staged looks at the record's name before the session is the model's choice (log 19). A record is
answered with its name, but for the global one, and its fields in the catalogue's layout. -/
def Obligations.ReadActiveAndStagedAnswerTheRecord : Prop :=
  (∀ (c : Configuration) (name : Nat),
    let bit (b : Bool) : List Byte := be 1 (if b then 1 else 0)
    (∀ p : PointId, let x := c.points[p]
      c.recordChars name (.point p) = be 1 name ++ bit x.enabled ++ be 1 x.sequence.code ++ be 1 x.priority.code ++
        be 1 x.source.code ++ be 1 (match x.group with | none => 255 | some g => g.val) ++
        be 1 (match x.suppressor with | none => 255 | some q => q.val) ++ be 1 x.chatterLimit ++
        be 1 x.chatterShelveMinutes ++ be 1 x.reminderMinutes ++
        be 1 ((if x.relays.rly0 then 1 else 0) + (if x.relays.rly1 then 2 else 0) + (if x.relays.rly2 then 4 else 0))) ∧
    (∀ n : LineId, let x := c.lines[n]
      c.recordChars name (.line n) = be 1 name ++ be 1 x.polarity.code ++ be 1 x.onCount ++ be 1 x.offCount) ∧
    (∀ v : Level, let x := c.tones.level v
      c.recordChars name (.tone (.level v)) = be 1 name ++ be 2 x.pitchA ++ be 2 x.pitchB ++ be 2 x.onTime ++
        be 2 x.offTime ++ be 1 x.startLoudness ++ be 1 x.endLoudness ++ be 1 x.stepInterval ++ be 1 0) ∧
    c.recordChars name (.tone .chirp) = be 1 name ++ be 2 c.tones.chirp.pitch ++ be 2 c.tones.chirp.duration ++
      be 1 c.tones.chirp.loudness ++ be 7 0 ∧
    c.recordChars name (.tone .test) = be 1 name ++ be 2 c.tones.test.pitchA ++ be 2 c.tones.test.pitchB ++
      be 2 c.tones.test.onTime ++ be 2 c.tones.test.offTime ++ be 1 c.tones.test.loudness ++ be 3 0 ∧
    (∀ r : RelayId, c.recordChars name (.relay r) = be 1 name ++ be 1 c.relays[r].code) ∧
    (∀ l : LinkId, c.recordChars name (.link l) =
      be 1 name ++ be 1 (c.link l).authority.code ++ be 1 (c.link l).heartbeat) ∧
    c.recordChars name .global = be 2 c.global.chatterWindow ++ bit c.global.dual ++ bit c.global.lockAck ++
      bit c.global.lockSilence ++ bit c.global.lockReset ++ bit c.global.lockTest ++ bit c.global.keyChirp) ∧
  ∀ (s : State) (l : LinkId) (f : Frame),
    (∀ n, recordName (field f.body 0 1) (field f.body 1 1) = .ok n → s.Ready l .readActive f →
      exec (.readActive l) s = s.becomes (s.answered l f (okAnswer (s.active.recordChars (field f.body 1 1) n)))) ∧
    (∀ n c, recordName (field f.body 0 1) (field f.body 1 1) = .ok n → s.Ready l .readStaged f →
      s.manager.holder = some l → s.manager.staging = some c →
      exec (.readStaged l) s = s.becomes (s.answered l f (okAnswer
        (c.recordChars (field f.body 1 1) n ++ be 1 (if c.differs s.active n then 1 else 0))))) ∧
    (∀ n, recordName (field f.body 0 1) (field f.body 1 1) = .ok n → s.Ready l .readStaged f →
      s.manager.holder ≠ some l → exec (.readStaged l) s = s.becomes (s.answered l f (refuse .noSession))) ∧
    (∀ e, recordName (field f.body 0 1) (field f.body 1 1) = .error e →
      e = refuse .range (be 1 (if field f.body 0 1 ≤ 5 then 2 else 1) ++
        be 4 (if field f.body 0 1 ≤ 5 then field f.body 1 1 else field f.body 0 1)) ∧
      (s.Ready l .readActive f → exec (.readActive l) s = s.becomes (s.answered l f e)) ∧
      (s.Ready l .readStaged f → exec (.readStaged l) s = s.becomes (s.answered l f e)))

/-- A journal record's 20 characters, field by field, and the characters of its absent fields. A reply frame: SYNC
5Ah, LEN, the request's TAG, its KIND with 80h added, status, flags, the data, and the CRC of what stands between SYNC
and itself, high byte first. A report frame: TAG 0, KIND 60h, the record and the credits left. The CRC: FFFFh before the
first character, and for each bit, most significant first, the register shifted left, and exclusive-ored with 1021h where
the bit shifted out differs from the data bit. -/
def Obligations.RecordAndReplyLayouts : Prop :=
  (∀ r : Record, r.chars.length = 20 ∧
    (r.seq < 2 ^ 32 → field r.chars 0 4 = r.seq) ∧ (r.time < 2 ^ 48 → field r.chars 4 6 = r.time) ∧
    field r.chars 10 1 = r.body.kind.code ∧
    field r.chars 11 1 = (if r.basis = .calendar then 128 else 0) + r.body.origin.code ∧
    field r.chars 12 1 = (match r.body.point with | some p => p.val | none => 255) ∧
    field r.chars 13 1 = (match r.body.states with | some (x, _) => x.code | none => 255) ∧
    field r.chars 14 1 = (match r.body.states with | some (_, y) => y.code | none => 255) ∧
    field r.chars 15 1 = (match r.body.cause with | some c => c.code | none => 255) ∧
    (∀ n, r.body.occurrence = some n → n ≤ 65535 → field r.chars 16 2 = n) ∧
    (r.body.occurrence = none → field r.chars 16 2 = 0) ∧
    (∀ n, r.body.detail = some n → n ≤ 65535 → field r.chars 18 2 = n) ∧
    (r.body.detail = none → field r.chars 18 2 = 0)) ∧
  (∀ r : Reply, r.answer.data.length ≤ 238 → r.kind.toNat < 128 → ∃ covered : List Byte,
    r.chars = [0x5A] ++ covered ++ be 2 (crcOf covered).toNat ∧
    covered.length = r.answer.data.length + 5 ∧ field covered 0 1 = r.answer.data.length + 4 ∧
    field covered 1 1 = r.tag.toNat ∧ field covered 2 1 = r.kind.toNat + 128 ∧
    field covered 3 1 = r.answer.status.code ∧
    field covered 4 1 = (if r.answer.flags.repeated then 1 else 0) + (if r.answer.flags.extended then 2 else 0) +
      (if r.answer.flags.dropped then 4 else 0) ∧
    covered.drop 5 = r.answer.data) ∧
  (∀ (r : Record) (credits : Nat),
    let covered : List Byte := be 1 23 ++ be 1 0 ++ be 1 0x60 ++ r.chars ++ be 1 credits
    reportChars r credits = [0x5A] ++ covered ++ be 2 (crcOf covered).toNat) ∧
  crcOf [] = 0xFFFF#16 ∧
  (∀ (cs : List Byte) (c : Byte), crcOf (cs ++ [c]) = [7, 6, 5, 4, 3, 2, 1, 0].foldl (fun (x : BitVec 16) (i : Nat) =>
    if x.getLsbD 15 = c.getLsbD i then x <<< 1 else (x <<< 1) ^^^ 0x1021#16) (crcOf cs))

/-- Fetch: from a record of the ring, that record and those after it up to the count; from a lost one, a GAP record
and then the oldest records; from the next number or beyond, none. A from of 0 or a count outside 1 to 8 is refused.
Nothing else changes. -/
def Obligations.FetchAnswersTheRun : Prop :=
  ∀ (s : State) (l : LinkId) (f : Frame) (first count : Nat), s.Ready l .fetch f →
    field f.body 0 4 = first → field f.body 4 1 = count →
    (first = 0 → exec (.fetch l) s = s.becomes (s.answered l f (refuse .range (be 1 1 ++ be 4 0)))) ∧
    (first ≠ 0 → (count = 0 ∨ 8 < count) →
      exec (.fetch l) s = s.becomes (s.answered l f (refuse .range (be 1 2 ++ be 4 count)))) ∧
    (first ≠ 0 → 1 ≤ count → count ≤ 8 → ∃ rs : List Record,
      exec (.fetch l) s = s.becomes (s.answered l f (okAnswer
        (be 4 (seqBefore s.alarm.journal.nextSeq) ++ be 1 rs.length ++ rs.flatMap Record.chars))) ∧
      (seqSteps first s.alarm.journal.nextSeq = 0 → rs = []) ∧
      (1 ≤ seqSteps first s.alarm.journal.nextSeq →
        seqSteps first s.alarm.journal.nextSeq ≤ s.alarm.journal.ring.length →
        rs = (s.alarm.journal.ring.drop
          (s.alarm.journal.ring.length - seqSteps first s.alarm.journal.nextSeq)).take count) ∧
      (s.alarm.journal.ring.length < seqSteps first s.alarm.journal.nextSeq →
        seqSteps first s.alarm.journal.nextSeq ≤ 2147483647 →
        rs = ⟨first, s.alarm.journal.clock, s.alarm.journal.basis,
            { kind := .gap, origin := .part,
              detail := some (min 65535 (seqSteps first s.alarm.journal.nextSeq - s.alarm.journal.ring.length)) }⟩ ::
          s.alarm.journal.ring.take (count - 1)) ∧
      (s.alarm.journal.ring.length < seqSteps first s.alarm.journal.nextSeq →
        2147483647 < seqSteps first s.alarm.journal.nextSeq → rs = []))

/-! ## Conditions -/

/-- The qualification step of one line at one scan. -/
def Obligations.LineScanMovesTheRunCounter : Prop :=
  ∀ (x : Line) (w : Wire) (off : Bool),
    (off = match x.config.polarity, w with
      | .activeLow, .low => true
      | .activeLow, .high => false
      | .activeHigh, .high => true
      | .activeHigh, .low => false) →
    (x.scan w).raw = w ∧ (x.scan w).config = x.config ∧
    (x.abnormal = false → off = false → (x.scan w).abnormal = false ∧ (x.scan w).run = 0) ∧
    (x.abnormal = false → off = true → x.run + 1 ≠ x.config.onCount →
      (x.scan w).abnormal = false ∧ (x.scan w).run = x.run + 1) ∧
    (x.abnormal = false → off = true → x.run + 1 = x.config.onCount →
      (x.scan w).abnormal = true ∧ (x.scan w).run = 0) ∧
    (x.abnormal = true → off = true → (x.scan w).abnormal = true ∧ (x.scan w).run = 0) ∧
    (x.abnormal = true → off = false → x.run + 1 ≠ x.config.offCount →
      (x.scan w).abnormal = true ∧ (x.scan w).run = x.run + 1) ∧
    (x.abnormal = true → off = false → x.run + 1 = x.config.offCount →
      (x.scan w).abnormal = false ∧ (x.scan w).run = 0)

/-- LINE_SCAN, due, scans all 24 lines and starts the scan period again; the lines whose qualified state changed are taken
one after the other, in an order that is free (log 6), and each condition that changes for a point on such a line, in
ascending order, is delivered to the Sequence Engine with origin LINE. The points on lines that did not change, and on no
line, keep their conditions. Assertions, the groups' member counts, keys and the configuration are untouched. The levels
stand at the lines from then on (log 21). -/
def Obligations.LineScanReachesThePointsOfChangedLines : Prop :=
  ∀ (s : State) (levels : BitVec 24), Timer.due s.alarm.journal.elapsed s.scanTimer = true →
    ∃ (m : Part) (ns : List LineId), exec (.lineScan levels) s = s.becomes m.serve ∧
      (∀ n : LineId, m.lines[n] = s.lines[n].scan (if levels.getLsbD n.val then .high else .low)) ∧
      ns.Nodup ∧ (∀ n, n ∈ ns ↔ m.lines[n].abnormal ≠ s.lines[n].abnormal) ∧
      (∀ (n : LineId) (p : PointId), s.active.points[p].source = .line n → m.lines[n].abnormal ≠ s.lines[n].abnormal →
        m.conditions[p] = { s.conditions[p] with abnormal := m.lines[n].abnormal } ∧
        (s.conditions[p].abnormal ≠ m.lines[n].abnormal → m.alarm.points[p].abnormal = m.lines[n].abnormal)) ∧
      (∀ p : PointId, (∀ n, s.active.points[p].source = .line n → m.lines[n].abnormal = s.lines[n].abnormal) →
        m.conditions[p] = s.conditions[p] ∧ m.alarm.points[p].abnormal = s.alarm.points[p].abnormal) ∧
      m.alarm = (ns.flatMap fun n => allPoints.filter fun p => decide (s.active.points[p].source = .line n ∧
          m.conditions[p].abnormal ≠ s.conditions[p].abnormal)).foldl
        (fun a p => a.deliver (s.env .line) p m.conditions[p].abnormal) s.alarm ∧
      (∀ g : GroupId, m.alarm.groups[g].members = s.alarm.groups[g].members) ∧
      m = { s.toPart with
        inputs := levels, scanTimer := some (clockAfter s.alarm.journal.elapsed 1), free := s.free + 1
        lines := m.lines, conditions := m.conditions, alarm := m.alarm
        panel := { s.panel with relays := m.panel.relays } }

/-- Raise and Clear, once every entry has passed the check: the assertions of the requesting link on the listed points
are set or cleared, the reply counts those that changed, the conditions of the points that changed follow their
sources and are delivered to the Sequence Engine in list order with the link as origin, and the other link's assertions,
the lines, the links but for their queues, and the configuration are untouched. -/
def Obligations.RaiseAndClearSetTheAssertions : Prop :=
  ∀ (s : State) (l : LinkId) (v : Bool) (f : Frame) (ps : List PointId),
    s.Ready l (if v then .raise else .clear) f → f.body.map BitVec.toNat = ps.map Fin.val →
    (∀ p ∈ ps, s.active.points[p].source = .msgAny ∨ s.active.points[p].source = .msg l) →
    ∃ m : Part, exec (if v then .raise l else .clear l) s = s.becomes (m.conclude l f (okAnswer
        (be 1 (allPoints.countP fun p => decide (p ∈ ps) && (s.conditions[p].by l != v))))) ∧
      (∀ p : PointId, m.conditions[p].by l = if p ∈ ps then v else s.conditions[p].by l) ∧
      (∀ p : PointId, m.conditions[p].by (otherLink l) = s.conditions[p].by (otherLink l)) ∧
      (∀ p ∈ ps, s.conditions[p].by l ≠ v →
        m.conditions[p].abnormal = (match s.active.points[p].source with
          | .msgAny => v || s.conditions[p].by (otherLink l)
          | _ => v)) ∧
      (∀ p : PointId, p ∉ ps ∨ s.conditions[p].by l = v → m.conditions[p] = s.conditions[p]) ∧
      (∀ p : PointId, m.conditions[p].abnormal = s.conditions[p].abnormal →
        m.alarm.points[p].abnormal = s.alarm.points[p].abnormal) ∧
      (∀ p : PointId, m.conditions[p].abnormal ≠ s.conditions[p].abnormal →
        m.alarm.points[p].abnormal = m.conditions[p].abnormal) ∧
      m.alarm = (ps.eraseDups.filter fun p => decide (m.conditions[p].abnormal ≠ s.conditions[p].abnormal)).foldl
        (fun a p => a.deliver (s.env (.link l)) p m.conditions[p].abnormal) s.alarm ∧
      m = { s.begin l f with
        conditions := m.conditions, alarm := m.alarm, panel := { s.panel with relays := m.panel.relays } }

/-! ## Points -/

/-- QA and QN on a point by its sequence and state: a new occurrence or a change of state where the sequence's table
lists the event, otherwise one record that shows the same state as from and to, and nothing else. (No point is its own
suppressor in a configuration that has passed C2.) That a point held back in SUPPRESSED from AWAIT_RESET or RETURNED
leaves the active states with R8's effects is the model's reading (log 17). -/
def Obligations.ConditionChangesFollowTheTables : Prop :=
  ∀ (e : Env) (p : PointId) (a : Alarm), e.config.points[p].suppressor ≠ some p →
    let q := e.config.points[p].sequence
    let t := a.points[p].state
    (t = .idle ∨ (t = .awaitReset ∧ q = .hold) ∨ (t = .returned ∧ q = .follow) → Alarm.Begun e p .qa a (a.qa e p)) ∧
    (¬(t = .idle ∨ (t = .awaitReset ∧ q = .hold) ∨ (t = .returned ∧ q = .follow)) →
      a.qa e p = { a with journal := a.journal.append (pointRecord e p t a.points[p] .qa) }) ∧
    (t = .standing ∧ q = .hold → Alarm.Moved e p .awaitReset .qn a (a.qn e p)) ∧
    (t = .standing ∧ q ≠ .hold → Alarm.Moved e p .idle .qn a (a.qn e p)) ∧
    (t = .alerting ∧ q = .follow → Alarm.Moved e p .returned .qn a (a.qn e p)) ∧
    (t = .suppressed → Alarm.Moved e p .idle .qn a (a.qn e p)) ∧
    (¬(t = .standing ∨ (t = .alerting ∧ q = .follow) ∨ t = .suppressed) →
      a.qn e p = { a with journal := a.journal.append (pointRecord e p t a.points[p] .qn) })

/-- A condition change delivered to a DISABLED point sets its condition field and nothing else; on an enabled point
the field is set first, then QN acts, or QA acts and then, unless the point was SHELVED, is counted for chatter. A
counted QA: with limit 0 nothing; the first starts the window and counts 1; a later one counts on; one that reaches
the limit clears the chatter record and shelves the point for its chatter shelve minutes with cause CHATTER and origin
PART, or with all 16 entries in use appends SHELF_FULL. -/
def Obligations.DeliveriesActAndAreCounted : Prop :=
  (∀ (e : Env) (p : PointId) (v : Bool) (a : Alarm),
    (a.points[p].state = .disabled → (∀ q, (a.deliver e p v).points[q] =
        if q = p then { a.points[p] with abnormal := v } else a.points[q]) ∧
      (a.deliver e p v).journal = a.journal ∧ (a.deliver e p v).chatter = a.chatter ∧
      (a.deliver e p v).groups = a.groups ∧ (a.deliver e p v).shelf = a.shelf ∧
      (a.deliver e p v).sounder = a.sounder) ∧
    (a.points[p].state ≠ .disabled → v = false →
      a.deliver e p v = (a.setPoint p { a.points[p] with abnormal := false }).qn e p) ∧
    (a.points[p].state = .shelved → v = true →
      a.deliver e p v = (a.setPoint p { a.points[p] with abnormal := true }).qa e p) ∧
    (a.points[p].state ≠ .disabled → a.points[p].state ≠ .shelved → v = true →
      a.deliver e p v = ((a.setPoint p { a.points[p] with abnormal := true }).qa e p).countQA e p)) ∧
  (∀ (e : Env) (p : PointId) (a : Alarm),
    let c := a.chatter[p]
    let limit := e.config.points[p].chatterLimit
    (limit = 0 → a.countQA e p = a) ∧
    (limit ≠ 0 → c.count + 1 < limit → a.countQA e p = a.setChatter p ⟨c.count + 1,
      if c.count = 0 then some (clockAfter a.journal.elapsed (e.config.global.chatterWindow * 1000)) else c.window⟩) ∧
    (limit ≠ 0 → limit ≤ c.count + 1 → a.shelf.length < 16 →
      Alarm.Moved { e with origin := .part } p .shelved .chatter
        { a with
          chatter := a.chatter.set p ⟨0, none⟩
          shelf := insertEntry a.journal.elapsed
            ⟨p, .chatter, e.config.points[p].chatterShelveMinutes,
              clockAfter a.journal.elapsed (e.config.points[p].chatterShelveMinutes * 60000)⟩
            (a.shelf.filter fun n => n.point ≠ p) }
        (a.countQA e p)) ∧
    (limit ≠ 0 → limit ≤ c.count + 1 → 16 ≤ a.shelf.length → a.countQA e p =
      (a.setChatter p ⟨0, none⟩).append
        { kind := .shelfFull, origin := .part, point := some p, occurrence := some a.points[p].occurrence }))

/-- A point's lamp pattern, relay inputs and claim are those of its state, its mark, its hushed flag and its priority.
A relay settled after a command is on exactly while its mode's condition holds. -/
def Obligations.PatternsClaimsAndRelaysFollowTheState : Prop :=
  (∀ (c : PointConfig) (d : Point),
    d.pattern = (match d.state with
      | .alerting => if d.mark then .double else .fast
      | .standing => .steady
      | .returned | .awaitReset => .slow
      | .disabled | .idle | .suppressed | .shelved => .off) ∧
    (d.unacked = true ↔ d.state = .alerting ∨ d.state = .returned) ∧
    (d.state.active = true ↔
      d.state = .alerting ∨ d.state = .standing ∨ d.state = .returned ∨ d.state = .awaitReset) ∧
    (∀ v : Level, claimOf c d = some v ↔ d.state = .alerting ∧ d.hushed = false ∧ c.priority.code = v.code) ∧
    (claimOf c d = none ↔ ¬(d.state = .alerting ∧ d.hushed = false ∧ 1 ≤ c.priority.code))) ∧
  (∀ (s : Part) (r : RelayId),
    (s.settleRelays.panel.relays[r] = true ↔ (match s.active.relays[r] with
      | .off => False
      | .unacked => ∃ p : PointId, s.active.points[p].relays.has r = true ∧
          (s.alarm.points[p].state = .alerting ∨ s.alarm.points[p].state = .returned)
      | .active => ∃ p : PointId, s.active.points[p].relays.has r = true ∧ s.alarm.points[p].state.active = true
      | .sounding => ∃ c v, (s.channel c).mode = .level v)))

/-! ## Actions on points -/

/-- Acknowledge Point on a point that waits, with occurrence 0 or the current one: ACK as the sequence's table
directs, with R8's effects where it leaves the active states (its mark lost, its consequents released, its group armed
again where no member is active), and the reply carries the state and occurrence after it. -/
def Obligations.AcknowledgePointMovesThePoint : Prop :=
  ∀ (s : State) (l : LinkId) (f : Frame) (p : PointId) (t : PointState), s.Ready l .acknowledgePoint f →
    field f.body 0 1 = p.val → field f.body 1 2 = 0 ∨ field f.body 1 2 = s.alarm.points[p].occurrence →
    ((s.active.points[p].sequence = .hold ∧ s.alarm.points[p].state = .alerting ∧
        t = if s.alarm.points[p].abnormal then .standing else .awaitReset) ∨
      (s.active.points[p].sequence = .follow ∧ s.alarm.points[p].state = .alerting ∧ t = .standing) ∨
      (s.active.points[p].sequence = .follow ∧ s.alarm.points[p].state = .returned ∧ t = .idle)) →
    ∃ a, exec (.acknowledgePoint l) s = s.becomes (((s.begin l f).withAlarm a).conclude l f
        (okAnswer (be 1 t.code ++ be 2 s.alarm.points[p].occurrence))) ∧
      Alarm.Moved (s.env (.link l)) p t .ack s.alarm a

/-- Acknowledge Point refuses, in this order: a point above 95, a point that waits for no acknowledgement, and an
occurrence number that is not 0 and not the current one; nothing changes. The first entry of a Raise or Clear list
that fails its check decides the refusal, and nothing changes: an entry above 95 gets RANGE with its place and value,
an entry whose source does not read the link WRONG_SOURCE with its number. Shelve Point refuses, in this order: a
point above 95, a duration outside 1 to 1440, a DISABLED point, and, for a point not SHELVED, a table with all 16
entries in use; nothing changes. -/
def Obligations.ListedAndSinglePointsAreCheckedFirst : Prop :=
  (∀ (s : State) (l : LinkId) (f : Frame), s.Ready l .acknowledgePoint f →
    (95 < field f.body 0 1 → exec (.acknowledgePoint l) s = s.becomes
      (s.answered l f (refuse .range (be 1 1 ++ be 4 (field f.body 0 1))))) ∧
    (∀ p : PointId, field f.body 0 1 = p.val →
      s.alarm.points[p].state ≠ .alerting → s.alarm.points[p].state ≠ .returned →
      exec (.acknowledgePoint l) s = s.becomes (s.answered l f (refuse .nothingPending))) ∧
    (∀ p : PointId, field f.body 0 1 = p.val →
      s.alarm.points[p].state = .alerting ∨ s.alarm.points[p].state = .returned →
      field f.body 1 2 ≠ 0 → field f.body 1 2 ≠ s.alarm.points[p].occurrence →
      exec (.acknowledgePoint l) s = s.becomes (s.answered l f
        (refuse .stale (be 1 s.alarm.points[p].state.code ++ be 2 s.alarm.points[p].occurrence))))) ∧
  (∀ (s : State) (l : LinkId) (v : Bool) (f : Frame) (ps : List PointId) (b : Byte) (rest : List Byte),
    s.Ready l (if v then .raise else .clear) f →
    f.body = ps.map (fun p => BitVec.ofNat 8 p.val) ++ b :: rest →
    (∀ p ∈ ps, s.active.points[p].source = .msgAny ∨ s.active.points[p].source = .msg l) →
    (95 < b.toNat → exec (if v then .raise l else .clear l) s =
      s.becomes (s.answered l f (refuse .range (be 1 (ps.length + 1) ++ be 4 b.toNat)))) ∧
    (∀ p : PointId, p.val = b.toNat →
      s.active.points[p].source ≠ .msgAny → s.active.points[p].source ≠ .msg l →
      exec (if v then .raise l else .clear l) s =
        s.becomes (s.answered l f (refuse .wrongSource (be 1 p.val))))) ∧
  (∀ (s : State) (l : LinkId) (f : Frame), s.Ready l .shelvePoint f →
    (95 < field f.body 0 1 → exec (.shelvePoint l) s = s.becomes
      (s.answered l f (refuse .range (be 1 1 ++ be 4 (field f.body 0 1))))) ∧
    (field f.body 0 1 ≤ 95 → (field f.body 1 2 = 0 ∨ 1440 < field f.body 1 2) →
      exec (.shelvePoint l) s = s.becomes
        (s.answered l f (refuse .range (be 1 2 ++ be 4 (field f.body 1 2))))) ∧
    (∀ p : PointId, field f.body 0 1 = p.val → 1 ≤ field f.body 1 2 → field f.body 1 2 ≤ 1440 →
      s.alarm.points[p].state = .disabled →
      exec (.shelvePoint l) s = s.becomes (s.answered l f (refuse .notEnabled))) ∧
    (∀ p : PointId, field f.body 0 1 = p.val → 1 ≤ field f.body 1 2 → field f.body 1 2 ≤ 1440 →
      s.alarm.points[p].state ≠ .disabled → s.alarm.points[p].state ≠ .shelved → 16 ≤ s.alarm.shelf.length →
      exec (.shelvePoint l) s = s.becomes (s.answered l f (refuse .shelfFull (be 1 p.val ++ be 4 0 ++ be 1 16)))))

/-- Acknowledge All: the points that wait are acknowledged one after the other in ascending order, each as its sequence's
table directs, with its record of cause ACK and the requesting link's origin and with R8's effects; every point that waits
when the sweep begins is among them, and otherwise only points that were SUPPRESSED then; the reply counts them. With no
point SUPPRESSED the count is the number that waited, and the records are theirs, one each. A point neither waiting nor
SUPPRESSED is untouched. (Whether a point that the sweep itself releases is acknowledged too is free, log 8. That the
states are those of the sequences' tables is a law, which every step keeps.) -/
def Obligations.AcknowledgeAllSweepsThePoints : Prop :=
  ∀ (s : State) (l : LinkId) (f : Frame), s.Ready l .acknowledgeAll f → s.alarm.SequenceLaw s.active →
    ∃ (a : Alarm) (ps : List PointId),
      exec (.acknowledgeAll l) s = s.becomes (((s.begin l f).withAlarm a).conclude l f (okAnswer (be 1 ps.length))) ∧
      ps.Pairwise (· < ·) ∧ Chain (Alarm.Acknowledged (s.env (.link l))) ps s.alarm a ∧
      (∀ p : PointId, s.alarm.points[p].state = .alerting ∨ s.alarm.points[p].state = .returned → p ∈ ps) ∧
      (∀ p ∈ ps, s.alarm.points[p].state = .alerting ∨ s.alarm.points[p].state = .returned ∨
        s.alarm.points[p].state = .suppressed) ∧
      (∀ p : PointId, s.alarm.points[p].pendingAck = true →
        a.points[p].occurrence = s.alarm.points[p].occurrence ∧
        (s.alarm.points[p].state = .alerting → s.active.points[p].sequence = .hold →
          a.points[p].state = if s.alarm.points[p].abnormal then .standing else .awaitReset) ∧
        (s.alarm.points[p].state = .alerting → s.active.points[p].sequence = .follow → a.points[p].state = .standing) ∧
        (s.alarm.points[p].state = .returned → s.active.points[p].sequence = .follow → a.points[p].state = .idle)) ∧
      (∀ p : PointId, s.alarm.points[p].pendingAck = false → s.alarm.points[p].state ≠ .suppressed →
        a.points[p] = s.alarm.points[p]) ∧
      ((∀ p : PointId, s.alarm.points[p].state ≠ .suppressed) →
        ps = (allPoints.filter fun p =>
          decide (s.alarm.points[p].state = .alerting ∨ s.alarm.points[p].state = .returned)) ∧
        a.journal = s.alarm.journal.appendAll (ps.map fun p =>
          pointRecord (s.env (.link l)) p s.alarm.points[p].state a.points[p] .ack)) ∧
      a.shelf = s.alarm.shelf ∧ a.chatter = s.alarm.chatter

/-- Silence: every ALERTING point not yet hushed is hushed and its claim ends; one SILENCE record carries their
number, as the reply does; states, lamps, groups, the shelf table and the chatter records are untouched. -/
def Obligations.SilenceHushesEveryAudiblePoint : Prop :=
  ∀ (s : State) (l : LinkId) (f : Frame), s.Ready l .silence f →
    ∃ a, exec (.silence l) s = s.becomes (((s.begin l f).withAlarm a).conclude l f (okAnswer
        (be 1 (allPoints.countP fun p => s.alarm.points[p].audible)))) ∧
      (∀ p : PointId, a.points[p] = if s.alarm.points[p].state = .alerting ∧ s.alarm.points[p].hushed = false
        then { s.alarm.points[p] with hushed := true } else s.alarm.points[p]) ∧
      (∀ p : PointId, s.alarm.points[p].audible = true → a.sounder.claimLevel p = none) ∧
      (∀ p : PointId, s.alarm.points[p].audible = false →
        a.sounder.claimLevel p = s.alarm.sounder.claimLevel p) ∧
      a.journal = s.alarm.journal.append
        { kind := .silence, origin := .link l, detail := some (allPoints.countP fun p => s.alarm.points[p].audible) } ∧
      a.groups = s.alarm.groups ∧ a.shelf = s.alarm.shelf ∧ a.chatter = s.alarm.chatter ∧
      (s.alarm.LampLaw → a.lamps = s.alarm.lamps)

/-- Reset All: the points in AWAIT_RESET go to IDLE one after the other in ascending order, each with cause RST and R8's
effects, and the reply counts them; a point neither in AWAIT_RESET nor SUPPRESSED is untouched. Reset Point: a point in
AWAIT_RESET goes to IDLE with cause RST and R8's effects, and the reply carries IDLE and its occurrence; any other point
gets NOTHING_PENDING, a point above 95 RANGE, and nothing changes. -/
def Obligations.ResetRequestsClearWaitingPoints : Prop :=
  (∀ (s : State) (l : LinkId) (f : Frame), s.Ready l .resetAll f →
    ∃ a, exec (.resetAll l) s = s.becomes (((s.begin l f).withAlarm a).conclude l f (okAnswer
        (be 1 (allPoints.countP fun p => s.alarm.points[p].state = .awaitReset)))) ∧
      Chain (fun p => Alarm.Moved (s.env (.link l)) p .idle .rst)
        (allPoints.filter fun p => decide (s.alarm.points[p].state = .awaitReset)) s.alarm a ∧
      (∀ p : PointId, s.alarm.points[p].state = .awaitReset → a.points[p].state = .idle ∧
        a.points[p].mark = false ∧ a.points[p].occurrence = s.alarm.points[p].occurrence) ∧
      (∀ p : PointId, s.alarm.points[p].state ≠ .awaitReset → s.alarm.points[p].state ≠ .suppressed →
        a.points[p] = s.alarm.points[p]) ∧
      a.shelf = s.alarm.shelf ∧ a.chatter = s.alarm.chatter) ∧
  (∀ (s : State) (l : LinkId) (f : Frame), s.Ready l .resetPoint f →
    (∀ p : PointId, field f.body 0 1 = p.val → s.alarm.points[p].state = .awaitReset →
      ∃ a, exec (.resetPoint l) s = s.becomes (((s.begin l f).withAlarm a).conclude l f
          (okAnswer (be 1 1 ++ be 2 s.alarm.points[p].occurrence))) ∧
        Alarm.Moved (s.env (.link l)) p .idle .rst s.alarm a) ∧
    (∀ p : PointId, field f.body 0 1 = p.val → s.alarm.points[p].state ≠ .awaitReset →
      exec (.resetPoint l) s = s.becomes (s.answered l f (refuse .nothingPending))) ∧
    (95 < field f.body 0 1 → exec (.resetPoint l) s = s.becomes
      (s.answered l f (refuse .range (be 1 1 ++ be 4 (field f.body 0 1))))))

/-- REMINDER_EXPIRY, due on a STANDING point: it goes to ALERTING unhushed with its occurrence and mark, its entry
stamp is the number of the one record appended, cause REMIND and origin TIMER, its reminder stops, and no other point
and no group changes. -/
def Obligations.ReminderBringsThePointBack : Prop :=
  ∀ (s : State) (p : PointId) (d : Nat), s.alarm.points[p].state = .standing →
    s.alarm.points[p].reminder = some d → timeLeft s.alarm.journal.elapsed d = 0 →
    ∃ a, exec (.reminderExpiry p.val) s = s.becomes (s.withAlarm a).serve ∧
      (∀ q : PointId, a.points[q] = if q = p then { s.alarm.points[p] with
        state := .alerting, hushed := false, reminder := none, entryStamp := s.alarm.journal.nextSeq }
        else s.alarm.points[q]) ∧
      a.journal = s.alarm.journal.append (pointRecord (s.env .timer) p .standing a.points[p] .remind) ∧
      a.sounder.claimLevel p = s.active.points[p].priority.level? ∧ a.lamps[p] = a.points[p].pattern ∧
      a.groups = s.alarm.groups ∧ a.shelf = s.alarm.shelf ∧ a.chatter = s.alarm.chatter

/-! ## The shelf -/

/-- Shelve Point on a point neither DISABLED nor SHELVED, with an entry free: the entry of R63 at its place in the
order of expiry, the chatter record cleared, the point SHELVED with R8's effects, and the reply. Shelve Point on a
SHELVED point replaces its entry, changes nothing else and appends no record; its reply is EXTENDED. An entry's place:
after every entry whose expiry is earlier or equal, before every later one. -/
def Obligations.ShelvePointAddsOrReplacesAnEntry : Prop :=
  (∀ (now : Nat) (n : ShelfEntry) (es : List ShelfEntry),
    (es.map fun m => timeLeft now m.expiry).Pairwise (· ≤ ·) → ∃ before behind : List ShelfEntry,
      es = before ++ behind ∧ insertEntry now n es = before ++ n :: behind ∧
      (∀ m ∈ before, timeLeft now m.expiry ≤ timeLeft now n.expiry) ∧
      (∀ m ∈ behind, timeLeft now n.expiry < timeLeft now m.expiry)) ∧
  (∀ (s : State) (l : LinkId) (f : Frame) (p : PointId) (m : Nat), s.Ready l .shelvePoint f →
    field f.body 0 1 = p.val → field f.body 1 2 = m → 1 ≤ m → m ≤ 1440 →
    s.alarm.points[p].state ≠ .disabled → s.alarm.points[p].state ≠ .shelved → s.alarm.shelf.length < 16 →
    ∃ a, exec (.shelvePoint l) s = s.becomes (((s.begin l f).withAlarm a).conclude l f
        (okAnswer (be 1 p.val ++ be 4 (m * 60) ++ be 1 a.shelf.length))) ∧
      Alarm.Moved (s.env (.link l)) p .shelved .shelve
        { s.alarm with
          chatter := s.alarm.chatter.set p ⟨0, none⟩
          shelf := insertEntry s.alarm.journal.elapsed
            ⟨p, .link l, m, clockAfter s.alarm.journal.elapsed (m * 60000)⟩
            (s.alarm.shelf.filter fun n => n.point ≠ p) } a) ∧
  (∀ (s : State) (l : LinkId) (f : Frame) (p : PointId) (m : Nat), s.Ready l .shelvePoint f →
    field f.body 0 1 = p.val → field f.body 1 2 = m → 1 ≤ m → m ≤ 1440 → s.alarm.points[p].state = .shelved →
    ∃ shelf : List ShelfEntry,
      shelf = insertEntry s.alarm.journal.elapsed ⟨p, .link l, m, clockAfter s.alarm.journal.elapsed (m * 60000)⟩
        (s.alarm.shelf.filter fun n => n.point ≠ p) ∧
      exec (.shelvePoint l) s = s.becomes (({ s.begin l f with alarm := { s.alarm with shelf := shelf } } : Part).conclude
        l f { status := .ok, flags := { extended := true },
              data := be 1 p.val ++ be 4 (m * 60) ++ be 1 shelf.length }))

/-- Unshelve Point on a SHELVED point removes its entry, and the point comes back: a new occurrence where it is
ABNORMAL, IDLE where it is NORMAL; a point not SHELVED gets NOTHING_PENDING and a point above 95 RANGE, with nothing
changed. SHELF_EXPIRY, with the first entry's expiry reached, brings its point back with cause EXPIRE and origin
TIMER; CHATTER_WINDOW_EXPIRY, with the window run out, clears the point's chatter record and nothing else. -/
def Obligations.ShelvedPointsComeBack : Prop :=
  (∀ (s : State) (l : LinkId) (f : Frame), s.Ready l .unshelvePoint f →
    (∀ p : PointId, field f.body 0 1 = p.val → s.alarm.points[p].state = .shelved →
      ∃ a, exec (.unshelvePoint l) s = s.becomes (((s.begin l f).withAlarm a).conclude l f
          (okAnswer (be 1 a.points[p].state.code ++ be 2 a.points[p].occurrence))) ∧
        Alarm.CameBack (s.env (.link l)) p .unshelve
          { s.alarm with shelf := s.alarm.shelf.filter fun n => n.point ≠ p } a) ∧
    (∀ p : PointId, field f.body 0 1 = p.val → s.alarm.points[p].state ≠ .shelved →
      exec (.unshelvePoint l) s = s.becomes (s.answered l f (refuse .nothingPending))) ∧
    (95 < field f.body 0 1 → exec (.unshelvePoint l) s = s.becomes
      (s.answered l f (refuse .range (be 1 1 ++ be 4 (field f.body 0 1)))))) ∧
  ((∀ (s : State) (n : ShelfEntry) (rest : List ShelfEntry), s.alarm.shelf = n :: rest →
    s.alarm.points[n.point].state = .shelved → timeLeft s.alarm.journal.elapsed n.expiry = 0 →
    ∃ a, exec .shelfExpiry s = s.becomes (s.withAlarm a).serve ∧
      Alarm.CameBack (s.env .timer) n.point .expire
        { s.alarm with shelf := s.alarm.shelf.filter fun m => m.point ≠ n.point } a) ∧
  (∀ (s : State) (p : PointId) (d : Nat), s.alarm.chatter[p].window = some d →
    timeLeft s.alarm.journal.elapsed d = 0 →
    exec (.chatterWindowExpiry p.val) s = s.becomes
      { s.toPart with alarm := { s.alarm with chatter := s.alarm.chatter.set p ⟨0, none⟩ } }))

/-! ## Sounders and panel -/

/-- A chirp request, by the Chirp request: a playing chirp is extended with a fresh copy and a full duration, its wave
running on at an unchanged pitch (log 22), else a free channel 1 starts one, else it is dropped and counted; the reply
shows which, no record is appended, and the claims are untouched. -/
def Obligations.ChirpIsPlacedByOneRule : Prop :=
  ∀ (s : State) (l : LinkId) (f : Frame), s.Ready l .chirp f →
    let x := s.alarm.sounder
    let now := s.alarm.journal.elapsed
    let tone := x.tones.chirp
    let start : Channel :=
      ⟨.chirp, .chirp tone, .a, tone.loudness, true, none, none, some (clockAfter now tone.duration), now, none⟩
    let extended (c : Channel) : Channel :=
      if c.phaseOn = true ∧ c.pitchHz = tone.pitch then { start with
        waveStart := c.waveStart, held := if tone.loudness = c.loudness then c.held else some (c.heard now, now) }
      else start
    let after (y : Sounder) : Part := { s.begin l f with alarm := { s.alarm with sounder := y } }
    (x.ch0.mode = .chirp → exec (.chirp l) s = s.becomes ((after { x with ch0 := extended x.ch0 }).conclude l f
      { status := .ok, flags := { extended := true }, data := be 1 0 })) ∧
    (x.ch0.mode ≠ .chirp → x.ch1.mode = .chirp → exec (.chirp l) s = s.becomes
      ((after { x with ch1 := extended x.ch1 }).conclude l f
        { status := .ok, flags := { extended := true }, data := be 1 1 })) ∧
    (x.ch0.mode ≠ .chirp → x.ch1.mode = .idle → exec (.chirp l) s = s.becomes
      ((after { x with ch1 := start }).conclude l f { status := .ok, data := be 1 1 })) ∧
    (x.ch0.mode ≠ .chirp → x.ch1.mode ≠ .chirp → x.ch1.mode ≠ .idle → exec (.chirp l) s = s.becomes
      ((after { x with dropped := if x.dropped + 1 < 65535 then x.dropped + 1 else 65535 }).conclude l f
        { status := .ok, flags := { dropped := true }, data := be 1 255 }))

/-- The assignment brings channel 0 to the highest claimed level, and with DUAL on channel 1 to the second-highest: a
channel already at its target is undisturbed unless its profile is one that the evaluating apply changed, any other is
started on it, from a fresh copy at its start loudness, one with none goes IDLE but for a playing chirp. A claim change
puts the point at the end of its level's list, or takes it off; where that changes which lists are empty, the assignment
is evaluated at once, unless test is active or the evaluation waits for the operation's end. -/
def Obligations.AssignmentBringsChannelsToTheirTargets : Prop :=
  (∀ (now : Nat) (v : Level) (x : LevelTone), Channel.startLevel now x v =
    ⟨.level v, .level x, .a, x.startLoudness, true, some (clockAfter now x.onTime),
      if x.stepInterval = 0 ∨ x.startLoudness = x.endLoudness then none else some (clockAfter now (x.stepInterval * 1000)),
      none, now, none⟩) ∧
  (∀ (now : Nat) (restart : LevelSet) (s : Sounder),
    let top : Option Level := if s.claims3 ≠ [] then some .urgent else if s.claims2 ≠ [] then some .high
      else if s.claims1 ≠ [] then some .low else none
    let second : Option Level := if s.dual = false then none
      else if s.claims3 ≠ [] then (if s.claims2 ≠ [] then some .high else if s.claims1 ≠ [] then some .low else none)
      else if s.claims2 ≠ [] ∧ s.claims1 ≠ [] then some .low else none
    let changed (v : Level) : Bool := match v with
      | .low => restart.low
      | .high => restart.high
      | .urgent => restart.urgent
    let brought (target : Option Level) (c : Channel) : Channel :=
      match target with
      | some v => if c.mode = .level v ∧ changed v = false then c else Channel.startLevel now (s.tones.level v) v
      | none => if c.mode = .chirp ∨ c.mode = .idle then c
          else { c with mode := .idle, phaseOn := false, cadence := none, escalation := none, chirpTimer := none }
    s.assign now restart = { s with ch0 := brought top s.ch0, ch1 := brought second s.ch1 }) ∧
  (∀ (test defer : Bool) (now : Nat) (p : PointId) (level : Option Level) (stamp : Nat) (s : Sounder),
    let list (v : Level) (cs : List Claim) : List Claim :=
      cs.filter (fun c => c.point ≠ p) ++ (if level = some v then [⟨p, stamp⟩] else [])
    let y : Sounder := { s with
      claims1 := list .low s.claims1, claims2 := list .high s.claims2, claims3 := list .urgent s.claims3 }
    (s.claimLevel p = level → s.passClaim test defer now p level stamp = s) ∧
    (s.claimLevel p ≠ level → s.passClaim test defer now p level stamp =
      if ((y.claims1 = [] ↔ s.claims1 = []) ∧ (y.claims2 = [] ↔ s.claims2 = []) ∧ (y.claims3 = [] ↔ s.claims3 = [])) ∨
        defer = true ∨ test = true then y else y.assign now {}))

/-- The three channel timers, when due: a phase ends and the next begins, the loudness takes one step towards its end,
a chirp ends and its channel goes IDLE; the other channel and everything else are untouched. The output: held low while
IDLE or in an off phase, otherwise the current pitch at the current loudness, but that a loudness changed while sounding
is heard from the next period of the pitch. A wave runs on while the channel goes on sounding at the same pitch; another
pitch, or a sound after silence, begins its own (log 22). -/
def Obligations.ChannelTimersExpire : Prop :=
  (∀ (now : Nat) (c : Channel),
    let hz : Nat := match c.copy, c.pitch with
      | .level t, .a => t.pitchA
      | .level t, .b => t.pitchB
      | .test t, .a => t.pitchA
      | .test t, .b => t.pitchB
      | .chirp t, _ => t.pitch
    let period (n : Nat) : Nat := (n + 281474976710656 - c.waveStart % 281474976710656) % 281474976710656 * hz / 1000
    (c.mode = .idle ∨ c.phaseOn = false → c.output now = none) ∧
    (c.mode ≠ .idle → c.phaseOn = true → c.held = none → c.output now = some (hz, c.loudness)) ∧
    (∀ v changed, c.mode ≠ .idle → c.phaseOn = true → c.held = some (v, changed) →
      c.output now = some (hz, if period now = period changed then v else c.loudness))) ∧
  (∀ (now : Nat) (c d : Channel),
    (c.mode ≠ .idle → c.phaseOn = true → c.pitchHz = d.pitchHz → c.carry now d = { d with
      waveStart := c.waveStart, held := if d.loudness = c.loudness then c.held else some (c.heard now, now) }) ∧
    (c.mode = .idle ∨ c.phaseOn = false ∨ c.pitchHz ≠ d.pitchHz →
      c.carry now d = { d with waveStart := now, held := none })) ∧
  ∀ (s : State) (c : ChanId) (d : Nat), timeLeft s.alarm.journal.elapsed d = 0 →
    let x := s.channel c
    let now := s.alarm.journal.elapsed
    (x.cadence = some d → x.phaseOn = true → x.copy.cadence.2.1 ≠ 0 →
      exec (.cadencePhaseExpiry c) s = s.becomes (s.setChannel c
        { x with phaseOn := false, cadence := some (clockAfter now x.copy.cadence.2.1) })) ∧
    (x.cadence = some d → x.phaseOn = false ∨ x.copy.cadence.2.1 = 0 →
      exec (.cadencePhaseExpiry c) s = s.becomes (s.setChannel c (x.carry now { x with
        phaseOn := true
        pitch := if x.copy.cadence.2.2 = true ∧ x.pitch = .a then .b else .a
        cadence := some (clockAfter now x.copy.cadence.1) }))) ∧
    (∀ t : LevelTone, x.escalation = some d → x.copy = .level t →
      exec (.escalationStep c) s = s.becomes (s.setChannel c
        (let v := if t.startLoudness < t.endLoudness then x.loudness + 1 else x.loudness - 1
        x.carry now { x with
          loudness := v
          escalation := if v = t.endLoudness then none else some (clockAfter now (t.stepInterval * 1000)) }))) ∧
    (x.chirpTimer = some d → exec (.chirpTimerExpiry c) s = s.becomes (s.setChannel c
      { x with mode := .idle, phaseOn := false, cadence := none, escalation := none, chirpTimer := none }))

/-- A change of the test set between empty and non-empty appends its record and then starts TEST on both channels, or
evaluates the assignment afresh; any other change touches the set alone. -/
def Obligations.TestSetChangesAreJournaledAndSounded : Prop :=
  ∀ (s : Part) (o : Origin) (t : TestSet),
    let now := s.alarm.journal.elapsed
    let x := s.alarm.sounder
    let start : Channel :=
      ⟨.test, .test x.tones.test, .a, x.tones.test.loudness, true, some (clockAfter now x.tones.test.onTime), none, none,
        now, none⟩
    let set (a : Alarm) : Part := { s with alarm := a, panel := { s.panel with testSet := t } }
    (s.panel.testSet.active = t.active → s.changeTestSet o t = set s.alarm) ∧
    (s.panel.testSet.active = false → t.active = true → s.changeTestSet o t = (set { s.alarm with
      journal := s.alarm.journal.append { kind := .testBegin, origin := o }
      sounder := { x with ch0 := start, ch1 := start } }).settleRelays) ∧
    (s.panel.testSet.active = true → t.active = false → s.changeTestSet o t = (set { s.alarm with
      journal := s.alarm.journal.append { kind := .testEnd, origin := o }, sounder := x.assign now {} }).settleRelays)

/-- Test Begin puts the link in the test set and starts its timer afresh, EXTENDED where it was there already, and
refuses a duration outside 1 to 60 s; Test End takes the link out and stops its timer, or answers NOTHING_PENDING
where it is not in the set; MESSAGE_TEST_EXPIRY takes it out with origin TIMER. -/
def Obligations.MessageTestsBeginAndEnd : Prop :=
  ∀ (s : State) (l : LinkId) (f : Frame),
    (∀ d, s.Ready l .testBegin f → field f.body 0 1 = d → 1 ≤ d → d ≤ 60 →
      exec (.testBegin l) s = s.becomes ((((s.begin l f).changeTestSet (.link l)
          (s.panel.testSet.setLink l true)).setTestTimer l
          (some (clockAfter s.alarm.journal.elapsed (d * 1000)))).conclude l f
        { status := .ok, flags := { extended := s.panel.testSet.hasLink l },
          data := be 1 (s.panel.testSet.setLink l true).code ++ be 1 d })) ∧
    (s.Ready l .testBegin f → field f.body 0 1 = 0 ∨ 60 < field f.body 0 1 →
      exec (.testBegin l) s = s.becomes
        (s.answered l f (refuse .range (be 1 1 ++ be 4 (field f.body 0 1))))) ∧
    (s.Ready l .testEnd f → s.panel.testSet.hasLink l = true →
      exec (.testEnd l) s = s.becomes ((((s.begin l f).changeTestSet (.link l)
          (s.panel.testSet.setLink l false)).setTestTimer l none).conclude l f
        (okAnswer (be 1 (s.panel.testSet.setLink l false).code)))) ∧
    (s.Ready l .testEnd f → s.panel.testSet.hasLink l = false →
      exec (.testEnd l) s = s.becomes (s.answered l f (refuse .nothingPending))) ∧
    (∀ d, s.panel.testTimer l = some d → timeLeft s.alarm.journal.elapsed d = 0 →
      exec (.messageTestExpiry l) s = s.becomes
        ((s.changeTestSet .timer (s.panel.testSet.setLink l false)).setTestTimer l none).serve)

/-- KEY_SAMPLE, due, starts the key's sample period of 1 ms again; a sample that differs from the raw level takes it and
starts the steady timer at 20 ms, and one that agrees changes nothing. The level presented stands at the line from then
on (log 21), and through a full reset, which sets the qualifier to HIGH, RELEASED and stopped and has the next sample
come 1 ms after it (log 15): so a key held down gives a LOW first sample. KEY_STEADY_EXPIRY, due: a LOW level against RELEASED is a press, and a HIGH level against PRESSED a
release, of which only TEST's acts; a locked press changes the qualifier alone; an accepted one appends KEY, asks for
its chirp where key chirp is on, and then carries out its action; a level that agrees stops the timer and nothing
else. -/
def Obligations.KeysAreQualifiedAndAct : Prop :=
  (∀ (s : State) (k : KeyId) (w : Wire), Timer.due s.alarm.journal.elapsed (s.keyLine k).sample = true →
    let sampled : Part := s.setKeyLine k ⟨w, some (clockAfter s.alarm.journal.elapsed 1)⟩
    ((s.panel.key k).raw = w → exec (.keySample k w) s = s.becomes sampled) ∧
    ((s.panel.key k).raw ≠ w → exec (.keySample k w) s = s.becomes (sampled.setKey k { s.panel.key k with
      raw := w, steady := some (clockAfter s.alarm.journal.elapsed 20) }))) ∧
  (∀ (s : State) (p : Straps) (k : KeyId), ∃ t : Part, exec (.fullReset p) s = s.becomes t ∧
    t.keyLine k = ⟨(s.keyLine k).level, some 1⟩ ∧ t.panel.key k = ⟨.high, false, none⟩) ∧
  (∀ (s : State) (k : KeyId) (d : Nat), (s.panel.key k).steady = some d → timeLeft s.alarm.journal.elapsed d = 0 →
    let q := s.panel.key k
    let pressed : Part := s.setKey k ⟨.low, true, none⟩
    let keyed : Part := pressed.append
      { kind := .key, origin := .panel,
        detail := some (match k with | .ack => 0 | .silence => 1 | .reset => 2 | .test => 3) }
    let chirped : Part := if s.active.global.keyChirp then keyed.chirp.1 else keyed
    ((q.raw = .low ↔ q.pressed = true) →
      exec (.keySteadyExpiry k) s = s.becomes (s.setKey k { q with steady := none }).serve) ∧
    (q.raw = .low → q.pressed = false → s.active.global.lock k = true →
      exec (.keySteadyExpiry k) s = s.becomes pressed.serve) ∧
    (q.raw = .low → q.pressed = false → s.active.global.lock k = false →
      exec (.keySteadyExpiry k) s = s.becomes ((match k with
        | .ack => chirped.withAlarm (chirped.alarm.ackAll (s.env .panel)).1
        | .silence => chirped.withAlarm (chirped.alarm.silence (s.env .panel)).1
        | .reset => chirped.withAlarm (chirped.alarm.resetAll (s.env .panel)).1
        | .test => chirped.changeTestSet .panel { s.panel.testSet with key := true }) : Part).serve) ∧
    (q.raw = .high → q.pressed = true →
      exec (.keySteadyExpiry k) s = s.becomes ((if k = .test ∧ s.panel.testSet.key = true
        then (s.setKey k ⟨.high, false, none⟩).changeTestSet .panel { s.panel.testSet with key := false }
        else s.setKey k ⟨.high, false, none⟩) : Part).serve))

/-- LAMP_REFRESH, due, latches, for every point, whether its lamp is lit: steadily while test is active, else by its
pattern and the flash phase; the next is due 10 ms later, and nothing else changes. That the refresh timer starts at the
full reset, so that the first refresh comes 10 ms after it, is the model's choice (log 15). -/
def Obligations.LampRefreshLatchesTheLitLamps : Prop :=
  ∀ s : State, Timer.due s.alarm.journal.elapsed s.panel.refresh = true → ∃ v : Vector Bool 96,
    exec .lampRefresh s = s.becomes { s.toPart with panel := { s.panel with
      drivers := v, refresh := some (clockAfter s.alarm.journal.elapsed 10) } } ∧
    ∀ p : PointId, v[p] = true ↔ s.panel.testSet.active = true ∨ (match s.alarm.lamps[p] with
      | .off => False
      | .steady => True
      | .fast => s.panel.flash % 250 ≤ 124
      | .slow => s.panel.flash ≤ 499
      | .double => s.panel.flash ≤ 99 ∨ (200 ≤ s.panel.flash ∧ s.panel.flash ≤ 299))

/-! ## Journal and streams -/

/-- Set Clock loads the clock, sets the basis to CALENDAR, appends CLOCK_SET stamped with the new clock, and replies
with the clock and basis before it and the record's number; the elapsed count and everything else are untouched. -/
def Obligations.SetClockLoadsTheClock : Prop :=
  ∀ (s : State) (l : LinkId) (f : Frame), s.Ready l .setClock f →
    let j := s.alarm.journal
    exec (.setClock l) s = s.becomes (((s.begin l f).setJournal
        (Journal.append { kind := .clockSet, origin := .link l }
          { j with clock := field f.body 0 6, basis := .calendar })).conclude l f
      (okAnswer (be 6 j.clock ++ be 1 (match j.basis with | .elapsed => 0 | .calendar => 1) ++ be 4 j.nextSeq)))

/-- Taking a record: it is numbered with the next sequence number and stamped with the clock and basis, and becomes
the newest of the ring; a full ring drops its oldest first, and a subscribed stream whose cursor lies on that record
moves off it and begins or grows a gap; the clock and the elapsed count are untouched. -/
def Obligations.AppendTakesTheRecordWhole : Prop :=
  ∀ (j : Journal) (b : RecordBody),
    (j.append b).nextSeq = (if j.nextSeq = 4294967295 then 1 else j.nextSeq + 1) ∧
    (j.append b).clock = j.clock ∧ (j.append b).basis = j.basis ∧ (j.append b).elapsed = j.elapsed ∧
    (j.append b).ring = (if j.ring.length < 1024 then j.ring else j.ring.tail) ++ [⟨j.nextSeq, j.clock, j.basis, b⟩] ∧
    (j.ring.length < 1024 → ∀ l, (j.append b).stream l = j.stream l) ∧
    (∀ r rs l, j.ring = r :: rs → 1024 ≤ j.ring.length →
      (j.append b).stream l = if (j.stream l).subscribed = true ∧ (j.stream l).cursor = r.seq
        then { j.stream l with
          cursor := seqAfter r.seq
          gap := some (match (j.stream l).gap with
            | none => ⟨r.seq, 1⟩
            | some g => ⟨g.first, min 65535 (g.count + 1)⟩) }
        else j.stream l)

/-- Subscribe sets the requesting link's stream afresh at NEXT, OLDEST or FROM, subscribed or not before, and refuses
in order a start, a credit count, a FROM of 0 and a FROM newer than the next number; nothing else changes. -/
def Obligations.SubscribeSetsTheStream : Prop :=
  ∀ (s : State) (l : LinkId) (f : Frame) (start n credits : Nat), s.Ready l .subscribe f →
    field f.body 0 1 = start → field f.body 1 4 = n → field f.body 5 1 = credits →
    let j := s.alarm.journal
    let a := seqSteps n j.nextSeq
    let at_ (cursor : Nat) (gap : Option Gap) (gapData : List Byte) :=
      exec (.subscribe l) s = s.becomes (((s.begin l f).setStream l ⟨true, cursor, credits, gap⟩).conclude l f
        (okAnswer (be 4 cursor ++ be 1 credits ++ gapData ++ be 4 (seqBefore j.nextSeq))))
    (2 < start → exec (.subscribe l) s = s.becomes (s.answered l f (refuse .range (be 1 1 ++ be 4 start)))) ∧
    (start ≤ 2 → 64 < credits →
      exec (.subscribe l) s = s.becomes (s.answered l f (refuse .range (be 1 3 ++ be 4 credits)))) ∧
    (start = 0 → credits ≤ 64 → at_ j.nextSeq none (be 6 0)) ∧
    (∀ r rs, start = 1 → credits ≤ 64 → j.ring = r :: rs → at_ r.seq none (be 6 0)) ∧
    (start = 2 → credits ≤ 64 → n = 0 →
      exec (.subscribe l) s = s.becomes (s.answered l f (refuse .range (be 1 2 ++ be 4 0)))) ∧
    (start = 2 → credits ≤ 64 → n ≠ 0 → a ≤ j.ring.length → at_ n none (be 6 0)) ∧
    (∀ r rs, start = 2 → credits ≤ 64 → n ≠ 0 → j.ring = r :: rs → j.ring.length < a → a ≤ 2147483647 →
      at_ r.seq (some ⟨n, min 65535 (a - j.ring.length)⟩) (be 4 n ++ be 2 (min 65535 (a - j.ring.length)))) ∧
    (start = 2 → credits ≤ 64 → n ≠ 0 → j.ring.length < a → 2147483647 < a →
      exec (.subscribe l) s = s.becomes (s.answered l f (refuse .range (be 1 2 ++ be 4 n))))

/-- Grant Credits adds to the credits of a subscribed stream, 64 at most, and refuses a number outside 1 to 64, then a
stream not subscribed; Unsubscribe ends the stream and says whether it was subscribed; nothing else changes. -/
def Obligations.GrantCreditsAndUnsubscribe : Prop :=
  ∀ (s : State) (l : LinkId) (f : Frame),
    let t := s.alarm.journal.stream l
    (∀ n, s.Ready l .grantCredits f → field f.body 0 1 = n → 1 ≤ n → n ≤ 64 → t.subscribed = true →
      exec (.grantCredits l) s = s.becomes (((s.begin l f).setStream l
          { t with credits := min 64 (t.credits + n) }).conclude l f
        (okAnswer (be 1 (min 64 (t.credits + n)) ++ be 4 t.cursor ++ be 1 (if t.gap = none then 0 else 1))))) ∧
    (∀ n, s.Ready l .grantCredits f → field f.body 0 1 = n → (n = 0 ∨ 64 < n) →
      exec (.grantCredits l) s = s.becomes (s.answered l f (refuse .range (be 1 1 ++ be 4 n)))) ∧
    (∀ n, s.Ready l .grantCredits f → field f.body 0 1 = n → 1 ≤ n → n ≤ 64 → t.subscribed = false →
      exec (.grantCredits l) s = s.becomes (s.answered l f (refuse .notSubscribed))) ∧
    (s.Ready l .unsubscribe f → exec (.unsubscribe l) s = s.becomes
      (((s.begin l f).setStream l ⟨false, 1, 0, none⟩).conclude l f
        (okAnswer (be 1 (if t.subscribed then 1 else 0)))))

/-! ## Configuration -/

/-- Open Session: with the lock free the link becomes holder, the id counter advances (1 after 255), the staging is a
copy of the active configuration and SESSION_OPENED is appended; the holder is answered its id again; the other link
meets SESSION_HELD naming the holder. Close Session: the holder's appends SESSION_CLOSED, drops the staging, frees the
lock and answers the id; any other link's is refused with NO_SESSION and changes nothing. -/
def Obligations.SessionsOpenAndClose : Prop :=
  (∀ (s : State) (l : LinkId) (f : Frame), s.Ready l .openSession f →
    let id := if s.manager.idCounter < 255 then s.manager.idCounter + 1 else 1
    (s.manager.holder = none → exec (.openSession l) s = s.becomes
      ((({ s.begin l f with manager := { s.manager with
          holder := some l, sessionId := id, idCounter := id, staging := some s.active } } : Part).append
        { kind := .sessionOpened, origin := .link l, detail := some id }).conclude l f
        (okAnswer (be 1 id ++ be 1 1)))) ∧
    (s.manager.holder = some l →
      exec (.openSession l) s = s.becomes (s.answered l f (okAnswer (be 1 s.manager.sessionId ++ be 1 0)))) ∧
    (s.manager.holder = some (otherLink l) →
      exec (.openSession l) s = s.becomes
        (s.answered l f (refuse .sessionHeld (be 1 (match otherLink l with | .a => 0 | .b => 1)))))) ∧
  (∀ (s : State) (l : LinkId) (f : Frame), s.Ready l .closeSession f →
    (s.manager.holder = some l → exec (.closeSession l) s = s.becomes
      (({ (s.begin l f).append { kind := .sessionClosed, origin := .link l, detail := some s.manager.sessionId } with
          manager := { s.manager with holder := none, sessionId := 0, staging := none } } : Part).conclude l f
        (okAnswer (be 1 s.manager.sessionId)))) ∧
    (s.manager.holder ≠ some l →
      exec (.closeSession l) s = s.becomes (s.answered l f (refuse .noSession))))

/-- The six Stage requests from the holder, with the record's name and every field in its table: the record read from
the body replaces the staged one, the reply says whether it now differs from the active one, and nothing else changes.
The record has the values its fields give. -/
def Obligations.StageRequestsReplaceOneRecord : Prop :=
  (∀ r : List Byte,
    (fits pointTable r → let x := pointRecordOf r
      x.enabled = decide (field r 0 1 = 1) ∧ x.sequence.code = field r 1 1 ∧ x.priority.code = field r 2 1 ∧
      x.source.code = field r 3 1 ∧ (match x.group with | none => 255 | some g => g.val) = field r 4 1 ∧
      (match x.suppressor with | none => 255 | some q => q.val) = field r 5 1 ∧ x.chatterLimit = field r 6 1 ∧
      x.chatterShelveMinutes = field r 7 1 ∧ x.reminderMinutes = field r 8 1 ∧
      x.relays = ⟨(field r 9 1).testBit 0, (field r 9 1).testBit 1, (field r 9 1).testBit 2⟩) ∧
    (fits lineTable r → (lineRecordOf r).polarity.code = field r 0 1 ∧ (lineRecordOf r).onCount = field r 1 1 ∧
      (lineRecordOf r).offCount = field r 2 1) ∧
    (∀ (c : ToneSet) (v : Level), c.withRecord r (.level v) = c.setLevel v
      ⟨field r 0 2, field r 2 2, field r 4 2, field r 6 2, field r 8 1, field r 9 1, field r 10 1⟩) ∧
    (∀ c : ToneSet, c.withRecord r .chirp = { c with chirp := ⟨field r 0 2, field r 2 2, field r 4 1⟩ }) ∧
    (∀ c : ToneSet, c.withRecord r .test =
      { c with test := ⟨field r 0 2, field r 2 2, field r 4 2, field r 6 2, field r 8 1⟩ }) ∧
    (fits relayTable r → (relayModeOf (field r 0 1)).code = field r 0 1) ∧
    (fits linkTable r → (linkRecordOf r).authority.code = field r 0 1 ∧ (linkRecordOf r).heartbeat = field r 1 1) ∧
    globalRecordOf r = ⟨field r 0 2, decide (field r 2 1 = 1), decide (field r 3 1 = 1), decide (field r 4 1 = 1),
      decide (field r 5 1 = 1), decide (field r 6 1 = 1), decide (field r 7 1 = 1)⟩) ∧
  ∀ (s : State) (l : LinkId) (f : Frame) (c : Configuration), s.manager.holder = some l → s.manager.staging = some c →
    let set (c' : Configuration) : Part := { s.begin l f with manager := { s.manager with staging := some c' } }
    let reply (b : Bool) : Answer := okAnswer (be 1 (if b then 1 else 0))
    let r := f.body.drop 1
    (∀ p : PointId, s.Ready l .stagePoint f → field f.body 0 1 = p.val → fits pointTable r →
      exec (.stagePoint l) s = s.becomes ((set { c with points := c.points.set p (pointRecordOf r) }).conclude l f
        (reply (pointRecordOf r ≠ s.active.points[p])))) ∧
    (∀ n : LineId, s.Ready l .stageLine f → field f.body 0 1 = n.val → fits lineTable r →
      exec (.stageLine l) s = s.becomes ((set { c with lines := c.lines.set n (lineRecordOf r) }).conclude l f
        (reply (lineRecordOf r ≠ s.active.lines[n])))) ∧
    (∀ t : ProfileId, s.Ready l .stageTone f → profile? (field f.body 0 1) = some t →
      fits (toneTable t) r →
      exec (.stageTone l) s = s.becomes ((set { c with tones := c.tones.withRecord r t }).conclude l f
        (reply ((c.tones.withRecord r t).differs s.active.tones t)))) ∧
    (∀ n : RelayId, s.Ready l .stageRelay f → field f.body 0 1 = n.val → field f.body 1 1 ≤ 3 →
      exec (.stageRelay l) s = s.becomes
        ((set { c with relays := c.relays.set n (relayModeOf (field f.body 1 1)) }).conclude l f
          (reply (relayModeOf (field f.body 1 1) ≠ s.active.relays[n])))) ∧
    (∀ k : LinkId, s.Ready l .stageLink f → field f.body 0 1 = linkCode k → fits linkTable r →
      exec (.stageLink l) s = s.becomes ((set (c.setLink k (linkRecordOf r))).conclude l f
        (reply (linkRecordOf r ≠ s.active.link k)))) ∧
    (s.Ready l .stageGlobal f → fits globalTable f.body →
      exec (.stageGlobal l) s = s.becomes ((set { c with global := globalRecordOf f.body }).conclude l f
        (reply (globalRecordOf f.body ≠ s.active.global))))

/-- A Stage request is refused, in this order, with NO_SESSION when its link does not hold the session, and with RANGE
for a record name out of its range; for the first field out of its values with RANGE and that field's place; nothing
changes. The record's name is field 1 and its first field is field 2; the global record has no name, and its first field
is field 1. -/
def Obligations.StageRequestsRefuseInOrder : Prop :=
  ∀ (s : State) (l : LinkId) (f : Frame),
    (∀ k : RequestKind, k ∈ [RequestKind.stagePoint, .stageLine, .stageTone, .stageRelay, .stageLink, .stageGlobal] →
      s.Ready l k f → s.manager.holder ≠ some l →
      exec (requestCommand l f.body k) s = s.becomes (s.answered l f (refuse .noSession))) ∧
    (∀ x : RequestKind × Nat,
      x ∈ [(RequestKind.stagePoint, 96), (.stageLine, 24), (.stageTone, 5), (.stageRelay, 3), (.stageLink, 2)] →
      s.Ready l x.1 f → s.manager.holder = some l → x.2 ≤ field f.body 0 1 →
      exec (requestCommand l f.body x.1) s =
        s.becomes (s.answered l f (refuse .range (be 1 1 ++ be 4 (field f.body 0 1))))) ∧
    (∀ x : RequestKind × Nat × FieldTable,
      x ∈ [(RequestKind.stagePoint, 96, pointTable), (.stageLine, 24, lineTable), (.stageRelay, 3, relayTable),
        (.stageLink, 2, linkTable)] →
      ∀ i v, s.Ready l x.1 f → s.manager.holder = some l → field f.body 0 1 < x.2.1 →
      firstOut x.2.2 (f.body.drop 1) i v →
      exec (requestCommand l f.body x.1) s = s.becomes (s.answered l f (refuse .range (be 1 (i + 2) ++ be 4 v)))) ∧
    (∀ t i v, s.Ready l .stageTone f → s.manager.holder = some l → profile? (field f.body 0 1) = some t →
      firstOut (toneTable t) (f.body.drop 1) i v →
      exec (.stageTone l) s = s.becomes (s.answered l f (refuse .range (be 1 (i + 2) ++ be 4 v)))) ∧
    (∀ i v, s.Ready l .stageGlobal f → s.manager.holder = some l → firstOut globalTable f.body i v →
      exec (.stageGlobal l) s = s.becomes (s.answered l f (refuse .range (be 1 (i + 1) ++ be 4 v))))

/-- Discard: the holder's staging becomes a fresh copy of the active configuration, and the reply counts the records
that differed; any other link is refused with NO_SESSION; no record is appended and nothing else changes. -/
def Obligations.DiscardMakesAFreshCopy : Prop :=
  ∀ (s : State) (l : LinkId) (f : Frame), s.Ready l .discard f →
    (∀ c, s.manager.holder = some l → s.manager.staging = some c → exec (.discard l) s = s.becomes
      (({ s.begin l f with manager := { s.manager with staging := some s.active } } : Part).conclude l f
        (okAnswer (be 1
          (allPoints.countP (fun p => c.points[p] ≠ s.active.points[p]) +
            allLines.countP (fun n => c.lines[n] ≠ s.active.lines[n]) +
            [Level.low, .high, .urgent].countP (fun v => c.tones.level v ≠ s.active.tones.level v) +
            (if c.tones.chirp ≠ s.active.tones.chirp then 1 else 0) +
            (if c.tones.test ≠ s.active.tones.test then 1 else 0) +
            allRelays.countP (fun r => c.relays[r] ≠ s.active.relays[r]) +
            [LinkId.a, .b].countP (fun k => c.link k ≠ s.active.link k) +
            (if c.global ≠ s.active.global then 1 else 0)))))) ∧
    (s.manager.holder ≠ some l → exec (.discard l) s = s.becomes (s.answered l f (refuse .noSession)))

/-- Commit: the holder's starts the check, whose time of 1 to 30 ms is free (log 5), and stays in execution with its
reply place reserved; any other link is refused with NO_SESSION. COMMIT_CHECK_COMPLETION, due, of a check that fails:
CHECK_FAILED with the code and item takes the reserved place, the check is idle, the session goes on with its staging,
and nothing else changes. -/
def Obligations.CommitsAreCheckedFirst : Prop :=
  (∀ (s : State) (l : LinkId) (f : Frame), s.Ready l .commit f →
    (s.manager.holder = some l → ∃ ms, 1 ≤ ms ∧ ms ≤ 30 ∧ exec (.commit l) s = s.becomes
      ({ s.begin l f with
        manager := { s.manager with check := some (clockAfter s.alarm.journal.elapsed ms) }
        free := s.free + 1 } : Part).serve) ∧
    (s.manager.holder ≠ some l → exec (.commit l) s = s.becomes (s.answered l f (refuse .noSession)))) ∧
  (∀ (s : State) (h : LinkId) (f : Frame) (c : Configuration) (d code item : Nat), s.manager.check = some d →
    timeLeft s.alarm.journal.elapsed d = 0 → s.manager.holder = some h → s.manager.staging = some c →
    (s.link h).executing = some f → c.check h = .failed code item →
    exec .commitCheckCompletion s = s.becomes
      (({ s.toPart with manager := { s.manager with check := none } } : Part).conclude h f
        (refuse .checkFailed (be 1 code ++ be 1 item))))

/-- The commit check: C1 to C5 in order, the first failing item of the first failing condition, in ascending order. That
C3 takes a NOTICE member and the seventeenth member of a group in one ascending scan is the model's reading (log 20). -/
def Obligations.CommitCheckTestsFiveConditions : Prop :=
  ∀ (c : Configuration) (holder : LinkId),
    let fed (n : LineId) : Nat := allPoints.countP fun p => c.points[p].enabled && decide (c.points[p].source = .line n)
    let bad2 (p : PointId) : Prop := ∃ q, c.points[p].suppressor = some q ∧
      (q = p ∨ c.points[q].suppressor ≠ none ∨ c.points[p].enabled = true ∧ c.points[q].enabled = false)
    let bad3 (p : PointId) : Prop := ∃ g, c.points[p].group = some g ∧ (c.points[p].sequence = .notice ∨
      allPoints.countP (fun q => decide (c.points[q].group = some g) && decide (q < p)) = 16)
    let bad4 (p : PointId) : Prop := c.points[p].sequence = .notice ∧ c.points[p].reminderMinutes ≠ 0
    (∀ n : LineId, 1 < fed n → (∀ m, m < n → fed m ≤ 1) → c.check holder = .failed 1 n.val) ∧
    ((∀ n, fed n ≤ 1) →
      (∀ p : PointId, bad2 p → (∀ q, q < p → ¬bad2 q) → c.check holder = .failed 2 p.val) ∧
      ((∀ p, ¬bad2 p) →
        (∀ p : PointId, bad3 p → (∀ q, q < p → ¬bad3 q) → c.check holder = .failed 3 p.val) ∧
        ((∀ p, ¬bad3 p) →
          (∀ p : PointId, bad4 p → (∀ q, q < p → ¬bad4 q) → c.check holder = .failed 4 p.val) ∧
          ((∀ p, ¬bad4 p) →
            c.check holder = if (c.link holder).authority = .configure then .passed else .failed 5 255))))

/-- COMMIT_CHECK_COMPLETION, due, of a check that passes: the staging becomes active whole and stays as an equal copy,
the mode is RUNNING, COMMIT is the first record appended, each block holds its new records, and the reply carries the
id, the number of point records changed and the number of the COMMIT record. Each point whose source changed keeps an
assertion that is held and that the new source still reads, loses the others, and takes its condition from the new
source. The points: those disabled and those reset,
each with its COMMIT record (their order is the model's choice, log 18), then marks and group records settled, then the
SUPPRESSED points whose new suppressor is none or not active released, then the entry passes over the reset points that
are ABNORMAL, those without a suppressor first, then the reminders. The channels are brought to their targets once at the
end, one whose level's profile changed started again, unless test is active; a locked TEST key then leaves the test set,
and its TEST_END follows the points' records (that place is the model's choice too, log 18). -/
def Obligations.PassedCommitAppliesTheStaging : Prop :=
  ∀ (s : State) (h : LinkId) (f : Frame) (c : Configuration) (d : Nat), s.manager.check = some d →
    timeLeft s.alarm.journal.elapsed d = 0 → s.manager.holder = some h → s.manager.staging = some c →
    (s.link h).executing = some f → c.check h = .passed →
    let n := allPoints.countP fun p => s.active.points[p] ≠ c.points[p]
    ∃ (m : Part) (bs : List RecordBody), exec .commitCheckCompletion s = s.becomes (m.conclude h f
        (okAnswer (be 1 s.manager.sessionId ++ be 1 n ++ be 4 s.alarm.journal.nextSeq))) ∧
      m.active = c ∧ m.manager = { s.manager with mode := .running, check := none } ∧
      m.alarm.journal = s.alarm.journal.appendAll
        ({ kind := .commit, origin := .link h, detail := some (s.manager.sessionId * 256 + n) } :: bs) ∧
      (∀ b ∈ bs, b.origin = .part ∧
        (b.kind = .testEnd ∨ b.kind = .point ∧ (b.cause = some .commit ∨ b.cause = some .release ∨
          b.cause = some .suppress))) ∧
      (∀ i : LineId, m.lines[i] = if c.lines[i] = s.lines[i].config then s.lines[i]
        else { s.lines[i] with config := c.lines[i], run := 0 }) ∧
      (∀ l : LinkId, (m.link l).authority = (c.link l).authority ∧ (m.link l).heartbeat = (c.link l).heartbeat ∧
        (m.link l).state = (s.link l).state ∧ (m.link l).waiting = (s.link l).waiting ∧
        (m.link l).replies = (s.link l).replies ∧ (m.link l).cache = (s.link l).cache ∧
        (m.link l).supervision = (if (s.link l).state = .live ∧ (c.link l).heartbeat ≠ (s.link l).heartbeat then
            (if (c.link l).heartbeat = 0 then none
              else some (clockAfter s.alarm.journal.elapsed ((c.link l).heartbeat * 1000)))
          else (s.link l).supervision)) ∧
      m.alarm.sounder.tones = c.tones ∧ m.alarm.sounder.dual = c.global.dual ∧
      (∀ g : GroupId, m.alarm.groups[g].members = allPoints.countP fun p => c.points[p].group = some g) ∧
      (∀ p : PointId, c.points[p].source = s.active.points[p].source → m.conditions[p] = s.conditions[p]) ∧
      (∀ p : PointId, c.points[p].source ≠ s.active.points[p].source →
        (∀ k : LinkId, m.conditions[p].by k = (s.conditions[p].by k &&
          decide (c.points[p].source = .msgAny ∨ c.points[p].source = .msg k))) ∧
        m.conditions[p].abnormal = m.alarm.points[p].abnormal ∧ m.conditions[p].abnormal = m.conditionOf p) ∧
      (∀ p : PointId, s.alarm.points[p].state = .shelved → c.points[p].enabled = true →
        m.alarm.points[p].state = .shelved) ∧
      (∀ p : PointId, s.active.points[p].enabled = true → c.points[p].enabled = false →
        m.alarm.points[p].state = .disabled ∧ m.alarm.points[p].occurrence = s.alarm.points[p].occurrence ∧
        m.alarm.chatter[p] = ⟨0, none⟩) ∧
      (∃ a1 a2 a3 a4 a5 : Alarm,
        let e : Env := ⟨c, s.panel.testSet.active, true, .part⟩
        a1 = { s.alarm with
          journal := s.alarm.journal.append
            { kind := .commit, origin := .link h, detail := some (s.manager.sessionId * 256 + n) }
          sounder := { s.alarm.sounder with tones := c.tones, dual := c.global.dual }
          points := a1.points, lamps := a1.lamps } ∧
        (∀ p : PointId, a1.points[p] = if c.points[p].source = s.active.points[p].source then s.alarm.points[p]
          else { s.alarm.points[p] with abnormal := m.conditions[p].abnormal }) ∧
        (∀ p : PointId, a1.lamps[p] = if c.points[p].source = s.active.points[p].source then s.alarm.lamps[p]
          else s.alarm.points[p].pattern) ∧
        Alarm.Settled e s.active a1 a2 ∧
        Alarm.Recomputed s.active c a2 a3 ∧
        Chain (Alarm.Released e) (allPoints.filter fun p => decide (a3.points[p].state = .suppressed ∧
          ∀ q, c.points[p].suppressor = some q → a3.points[q].state.active = false)) a3 a4 ∧
        Chain (fun p => Alarm.Begun e p .commit) (c.passOrder (allPoints.filter fun p =>
          decide (Resets s.active c s.alarm p ∧ a4.points[p].abnormal = true))) a4 a5 ∧
        (∀ p : PointId, m.alarm.points[p] = { a5.points[p] with
          reminder := reminderApplied s.alarm.journal.elapsed s.active.points[p] c.points[p] a5.points[p] }) ∧
        m.alarm.groups = a5.groups ∧ m.alarm.shelf = a5.shelf ∧ m.alarm.chatter = a5.chatter ∧
        (let x : Sounder := if s.panel.testSet.active then a5.sounder else a5.sounder.assign s.alarm.journal.elapsed
            ⟨decide (s.active.tones.level1 ≠ c.tones.level1), decide (s.active.tones.level2 ≠ c.tones.level2),
              decide (s.active.tones.level3 ≠ c.tones.level3)⟩
          if c.global.lockTest = true ∧ s.panel.testSet = ⟨true, false, false⟩ then
            m.alarm.sounder = x.assign s.alarm.journal.elapsed {} ∧
              m.alarm.journal = a5.journal.append { kind := .testEnd, origin := .part }
          else m.alarm.sounder = x ∧ m.alarm.journal = a5.journal)) ∧
      m.panel.testSet = (if c.global.lockTest = true then { s.panel.testSet with key := false } else s.panel.testSet) ∧
      m.panel.flash = s.panel.flash ∧ (∀ k, m.panel.key k = s.panel.key k)

/-- Restart with WARM: the session step first, with a running check abandoned and its holder's Commit answered ABANDONED,
and a held session lost; then START_WARM, the shelf and the chatter records empty, every group armed, every claim gone,
both channels IDLE, every DISABLED point kept and every other one IDLE and unmarked; then the entry passes over the
ABNORMAL points, those without a suppressor first, each in ascending order; then one evaluation of the channels. The reply
names START_WARM; the configuration, conditions, lines, streams, clock, test set and keys are kept. That the ABANDONED
reply stands at the end of the holder's reply queue is the model's choice (log 24). (No point is its own suppressor in a
configuration that has passed C2.) -/
def Obligations.RestartWarmRebuildsFromTheConditions : Prop :=
  ∀ (s : State) (l : LinkId) (f : Frame) (c : Part), s.Ready l .restart f → s.SessionLaw → field f.body 0 1 = 0 →
    (∀ p : PointId, s.active.points[p].suppressor ≠ some p) → Part.StopsCheck l (s.begin l f) c →
    let lost : List RecordBody := if s.manager.holder = none then []
      else [{ kind := .sessionLost, origin := .link l, detail := some s.manager.sessionId }]
    let e : Env := ⟨s.active, s.panel.testSet.active, true, .part⟩
    let now := s.alarm.journal.elapsed
    let idle (x : Channel) : Channel :=
      { x with mode := .idle, phaseOn := false, cadence := none, escalation := none, chirpTimer := none }
    ∃ (m : Part) (bs : List RecordBody), exec (.restartWarm l) s = s.becomes (m.conclude l f
        (okAnswer (be 4 (s.alarm.journal.appendAll lost).nextSeq))) ∧
      m.alarm.journal = s.alarm.journal.appendAll (lost ++ { kind := .startWarm, origin := .link l } :: bs) ∧
      (∀ b ∈ bs, b.kind = .point ∧ b.origin = .part ∧ (b.cause = some .restart ∨ b.cause = some .suppress)) ∧
      m.manager = { s.manager with check := none, holder := none, sessionId := 0, staging := none } ∧
      m.alarm.shelf = [] ∧ (∀ p : PointId, m.alarm.chatter[p] = ⟨0, none⟩) ∧
      (∀ p : PointId, s.alarm.points[p].state = .disabled → m.alarm.points[p] = s.alarm.points[p]) ∧
      (∀ p : PointId, s.alarm.points[p].state ≠ .disabled → s.alarm.points[p].abnormal = false →
        m.alarm.points[p] = { s.alarm.points[p] with state := .idle, mark := false, hushed := false, reminder := none }) ∧
      (∀ p : PointId, s.alarm.points[p].state ≠ .disabled → s.alarm.points[p].abnormal = true →
        m.alarm.points[p].occurrence = occurrenceAfter s.alarm.points[p].occurrence ∧
        (m.alarm.points[p].state = .suppressed ∨
          m.alarm.points[p].state = s.active.points[p].sequence.entryState)) ∧
      (∃ a b : Alarm,
        (∀ p : PointId, a.points[p] = if s.alarm.points[p].state = .disabled then s.alarm.points[p]
          else { s.alarm.points[p] with state := .idle, mark := false, hushed := false, reminder := none }) ∧
        (∀ p : PointId, a.lamps[p] = .off) ∧
        (∀ g : GroupId, a.groups[g] = { s.alarm.groups[g] with armed := true, first := none }) ∧
        a.shelf = [] ∧ (∀ p : PointId, a.chatter[p] = ⟨0, none⟩) ∧
        a.sounder = { s.alarm.sounder with
          ch0 := idle s.alarm.sounder.ch0, ch1 := idle s.alarm.sounder.ch1, claims1 := [], claims2 := [], claims3 := [] } ∧
        a.journal = s.alarm.journal.appendAll (lost ++ [{ kind := .startWarm, origin := .link l }]) ∧
        Chain (fun p => Alarm.Begun e p .restart) (s.active.passOrder (allPoints.filter fun p =>
          decide (s.alarm.points[p].state ≠ .disabled ∧ s.alarm.points[p].abnormal = true))) a b ∧
        m.alarm = { b with sounder :=
          if s.panel.testSet.active then b.sounder.startTest now else b.sounder.assign now {} }) ∧
      m = { c with
        manager := m.manager, alarm := m.alarm, panel := { s.panel with relays := m.panel.relays } }

/-- Restart with COLD, no other being drained: the session step, with a running check abandoned and its holder's Commit
answered ABANDONED, and a held session lost with the restarting link as origin; the link held back from executing, and
the OK reply, which brings the full reset when its last character has left; a second one, while the first drains, brings
none (log 30). That the ABANDONED reply stands at the end of the holder's reply queue is the model's choice (log 24). A
body that is neither WARM nor COLD is refused with RANGE, by either row, and each row leaves the other's
body alone: that one request kind has two rows is read so by the model (log 4). -/
def Obligations.RestartColdAndAbandonedChecks : Prop :=
  (∀ (s : State) (l : LinkId) (f : Frame) (c : Part), s.Ready l .restart f → field f.body 0 1 = 1 →
    Part.StopsCheck l (s.begin l f) c →
    let ended : Part := if s.manager.holder = none then c
      else ({ c with manager := { c.manager with holder := none, sessionId := 0, staging := none } } : Part).append
        { kind := .sessionLost, origin := .link l, detail := some s.manager.sessionId }
    (s.manager.drain = none → exec (.restartCold l) s = s.becomes
      ((({ ended with manager := { ended.manager with drain := some l } } : Part).setLink l
        { (s.begin l f).link l with held := true }).conclude l f { status := .ok, data := be 4 0, resets := true })) ∧
    (∀ k, s.manager.drain = some k → exec (.restartCold l) s = s.becomes
      ((ended.setLink l { (s.begin l f).link l with held := true }).conclude l f
        { status := .ok, data := be 4 0, resets := false }))) ∧
  (∀ (s : State) (l : LinkId) (f : Frame), s.Ready l .restart f →
    (field f.body 0 1 = 0 → exec (.restartCold l) s = s.becomes s.toPart) ∧
    (field f.body 0 1 = 1 → exec (.restartWarm l) s = s.becomes s.toPart) ∧
    (1 < field f.body 0 1 →
      exec (.restartCold l) s = s.becomes (s.answered l f (refuse .range (be 1 1 ++ be 4 (field f.body 0 1)))) ∧
      exec (.restartWarm l) s = s.becomes (s.answered l f (refuse .range (be 1 1 ++ be 4 (field f.body 0 1))))))

/-! ## Links -/

/-- Hello with protocol version 1 and the stored epoch changes nothing and answers identity, link, authority, mode,
newest number and stored epoch; another version is refused with VERSION and the identity. Hello with version 1 and a
new epoch: EPOCH first, the epoch stored and the cache emptied, the stream ended, a session the link holds lost with
SESSION_LOST next, then every assertion of the link dropped in ascending point order: each such
point's condition is worked out again from its source with the assertion cleared, and each condition that changes is
delivered to the Sequence Engine; the reply carries the old epoch. The other link's assertions and stream, the session of the other link, and the lines are untouched. -/
def Obligations.HelloIdentifiesAndDropsTheOldSelf : Prop :=
  (∀ (s : State) (l : LinkId) (f : Frame), s.Ready l .hello f →
    let identity : List Byte := [0x49, 0x50, 0x53, 0x55, 0x52, 0x41, 0x25, 0xA8, 2, 1]
    (field f.body 0 1 = 1 → field f.body 1 2 = (s.link l).epoch → exec (.hello l) s = s.becomes
      (s.answered l f (okAnswer (identity ++ be 1 (match l with | .a => 0 | .b => 1) ++
        be 1 (match (s.link l).authority with | .observe => 0 | .operate => 1 | .configure => 2) ++
        be 1 (match s.manager.mode with | .unconfigured => 0 | .running => 1) ++
        be 4 (seqBefore s.alarm.journal.nextSeq) ++ be 2 (s.link l).epoch)))) ∧
    (field f.body 0 1 ≠ 1 → exec (.hello l) s = s.becomes (s.answered l f (refuse .version identity)))) ∧
  (∀ (s : State) (l : LinkId) (f : Frame) (epoch : Nat), s.Ready l .hello f → field f.body 0 1 = 1 →
    field f.body 1 2 = epoch → epoch ≠ (s.link l).epoch →
    ∃ (m : Part) (bs : List RecordBody) (j : Journal), exec (.hello l) s = s.becomes (m.conclude l f
        (okAnswer (Config.identity ++ be 1 (linkCode l) ++ be 1 (s.link l).authority.code ++ be 1 s.manager.mode.code ++
          be 4 (seqBefore m.alarm.journal.nextSeq) ++ be 2 (s.link l).epoch))) ∧
      j = ((s.alarm.journal.append { kind := .epoch, origin := .link l, detail := some epoch }).endStream l) ∧
      m.alarm.journal = j.appendAll ((if s.manager.holder = some l
        then [{ kind := .sessionLost, origin := .link l, detail := some s.manager.sessionId }] else []) ++ bs) ∧
      (∀ b ∈ bs, b.kind = .point ∨ b.kind = .shelfFull) ∧
      m.alarm = (allPoints.filter fun p => decide (m.conditions[p].abnormal ≠ s.conditions[p].abnormal)).foldl
        (fun a p => a.deliver (s.env (.link l)) p m.conditions[p].abnormal)
        { s.alarm with journal := j.appendAll (if s.manager.holder = some l
          then [{ kind := .sessionLost, origin := .link l, detail := some s.manager.sessionId }] else []) } ∧
      m.link l = { (s.begin l f).link l with epoch := epoch, cache := none } ∧
      m.manager = (if s.manager.holder = some l
        then { s.manager with holder := none, sessionId := 0, staging := none } else s.manager) ∧
      (∀ p : PointId, m.conditions[p].by l = false ∧
        m.conditions[p].by (otherLink l) = s.conditions[p].by (otherLink l)) ∧
      (∀ p : PointId, s.conditions[p].by l = true → m.conditions[p].abnormal = (match s.active.points[p].source with
        | .line n => s.lines[n].abnormal
        | .msg k => if k = l then false else s.conditions[p].by (otherLink l)
        | .msgAny => s.conditions[p].by (otherLink l)
        | .silent k => decide ((s.link k).state = .silent))) ∧
      (∀ p : PointId, s.conditions[p].by l = false → m.conditions[p] = s.conditions[p]) ∧
      m = { s.begin l f with
        manager := m.manager, conditions := m.conditions, alarm := m.alarm
        linkA := m.linkA, linkB := m.linkB, panel := { s.panel with relays := m.panel.relays } } ∧
      m.link (otherLink l) = s.link (otherLink l))

/-- The receive framer outside a completing frame, for a character that comes in time: HUNT waits for A5h; LENGTH
takes 2 to 242 and otherwise abandons and counts; COLLECT keeps LEN characters; CHECK keeps the first CRC character; a
broken character is skipped in HUNT and elsewhere abandons and counts; each character kept starts the gap timer at 10
ms. INTRA_FRAME_GAP_EXPIRY, due: the frame in progress is abandoned and counted, and nothing else changes; but where a
character of the link has arrived at that count, and so waits, it is taken first, and the expiry does nothing (log 16). -/
def Obligations.FramerTakesCharactersAndGaps : Prop :=
  (∀ (s : State) (l : LinkId), (∀ d, (s.link l).gapTimer = some d → pastDeadline s.alarm.journal.elapsed d = false) →
    let k := s.link l
    let kept (x : Framer) : Part := s.setLink l { k with
      framer := x, gapTimer := some (clockAfter s.alarm.journal.elapsed 10) }
    let dropped : Part := s.setLink l { k with
      framer := .hunt, gapTimer := none
      framingErrors := if k.framingErrors + 1 < 65535 then k.framingErrors + 1 else 65535 }
    (k.framer = .hunt → exec (.receiveCharacter l (.good 0xA5)) s = s.becomes (kept .length).serve) ∧
    (∀ c, k.framer = .hunt → c ≠ 0xA5 → exec (.receiveCharacter l (.good c)) s = s.becomes s.serve) ∧
    (k.framer = .hunt → exec (.receiveCharacter l .broken) s = s.becomes s.serve) ∧
    (∀ c, k.framer = .length → 2 ≤ c.toNat → c.toNat ≤ 242 →
      exec (.receiveCharacter l (.good c)) s = s.becomes (kept (.collect c.toNat [])).serve) ∧
    (∀ c, k.framer = .length → (c.toNat < 2 ∨ 242 < c.toNat) →
      exec (.receiveCharacter l (.good c)) s = s.becomes dropped.serve) ∧
    (∀ c n taken, k.framer = .collect n taken → taken.length + 1 < n →
      exec (.receiveCharacter l (.good c)) s = s.becomes (kept (.collect n (taken ++ [c]))).serve) ∧
    (∀ c n taken, k.framer = .collect n taken → n ≤ taken.length + 1 →
      exec (.receiveCharacter l (.good c)) s = s.becomes (kept (.check (taken ++ [c]) none)).serve) ∧
    (∀ c taken, k.framer = .check taken none →
      exec (.receiveCharacter l (.good c)) s = s.becomes (kept (.check taken (some c))).serve) ∧
    (k.framer ≠ .hunt → exec (.receiveCharacter l .broken) s = s.becomes dropped.serve)) ∧
  (∀ (s : State) (l : LinkId) (d : Nat), (s.link l).gapTimer = some d → timeLeft s.alarm.journal.elapsed d = 0 →
    ((∀ c, Instr.receiveCharacter l c ∉ s.pending) → exec (.intraFrameGapExpiry l) s = s.becomes (s.setLink l { s.link l with
      framer := .hunt, gapTimer := none
      framingErrors := if (s.link l).framingErrors + 1 < 65535 then (s.link l).framingErrors + 1 else 65535 })) ∧
    (∀ c, Instr.receiveCharacter l c ∈ s.pending → exec (.intraFrameGapExpiry l) s = s.becomes s.toPart))

/-- The second CRC character completes a frame. A wrong CRC is counted and the frame discarded. A right one acts on
the link state, and then the frame joins the receive queue, or with 4 waiting is refused and counted, with a BUSY
reply where a reply place is free. -/
def Obligations.CompleteFramesAreCheckedAndQueued : Prop :=
  ∀ (s : State) (l : LinkId) (tag kind : Byte) (body : List Byte) (high low : Byte),
    (∀ d, (s.link l).gapTimer = some d → pastDeadline s.alarm.journal.elapsed d = false) →
    (s.link l).framer = .check (tag :: kind :: body) (some high) →
    let right : Prop := crcOf (BitVec.ofNat 8 (body.length + 2) :: tag :: kind :: body) = high ++ low
    let hunting : Part := s.setLink l { s.link l with framer := .hunt, gapTimer := none }
    let k := hunting.heard l |>.link l
    (¬right → exec (.receiveCharacter l (.good low)) s = s.becomes (hunting.setLink l { hunting.link l with
      crcErrors := if (s.link l).crcErrors + 1 < 65535 then (s.link l).crcErrors + 1 else 65535 }).serve) ∧
    (right → (s.link l).waiting.length < 4 → exec (.receiveCharacter l (.good low)) s = s.becomes
      ((hunting.heard l).setLink l { k with
        waiting := (s.link l).waiting ++ [⟨tag, kind, body, high ++ low⟩] }).serve) ∧
    (right → 4 ≤ (s.link l).waiting.length → (s.link l).placesTaken < 8 →
      exec (.receiveCharacter l (.good low)) s = s.becomes ((hunting.heard l).setLink l { k with
        busyRefusals := if (s.link l).busyRefusals + 1 < 65535 then (s.link l).busyRefusals + 1 else 65535
        replies := (s.link l).replies ++ [⟨tag, kind, { status := .busy }⟩] }).serve) ∧
    (right → 4 ≤ (s.link l).waiting.length → 8 ≤ (s.link l).placesTaken →
      exec (.receiveCharacter l (.good low)) s = s.becomes ((hunting.heard l).setLink l { k with
        busyRefusals := if (s.link l).busyRefusals + 1 < 65535 then (s.link l).busyRefusals + 1 else 65535 }).serve)

/-- What an accepted frame does to its link: DOWN becomes LIVE with LINK_LIVE and the supervision started; LIVE
restarts the supervision where there is a heartbeat interval; SILENT becomes LIVE as from DOWN, and then each point
that reads this link's silence goes NORMAL, in ascending order, each change delivered to the Sequence Engine with the
link as origin, and no other condition changes. -/
def Obligations.AcceptedFramesKeepTheLinkLive : Prop :=
  ∀ (s : Part) (l : LinkId),
    let k := s.link l
    let started : Timer :=
      if k.heartbeat = 0 then none else some (clockAfter s.alarm.journal.elapsed (k.heartbeat * 1000))
    let live : Part := (s.setLink l { k with state := .live, supervision := started }).append
      { kind := .linkLive, origin := .link l }
    (k.state = .down → s.heard l = live) ∧
    (k.state = .live → s.heard l = s.setLink l { k with
      supervision := if k.heartbeat = 0 then k.supervision else started }) ∧
    (k.state = .silent →
      (∀ m, (s.heard l).link m = live.link m) ∧ (s.heard l).manager = s.manager ∧ (s.heard l).active = s.active ∧
      (∀ p : PointId, s.active.points[p].source = .silent l →
        (s.heard l).conditions[p] = { s.conditions[p] with abnormal := false }) ∧
      (∀ p : PointId, s.active.points[p].source ≠ .silent l → (s.heard l).conditions[p] = s.conditions[p]) ∧
      (s.heard l).alarm = (allPoints.filter fun p => decide (s.active.points[p].source = .silent l ∧
          s.conditions[p].abnormal = true)).foldl (fun a p => a.deliver (s.env (.link l)) p false) live.alarm ∧
      ∃ bs, (s.heard l).alarm.journal = live.alarm.journal.appendAll bs)

/-- SUPERVISION_EXPIRY, due on a LIVE link: SILENT with the timer stopped, LINK_SILENT first, the stream's credits 0, a
session the link holds lost with its running check abandoned and answered ABANDONED, and each point that reads this
link's silence ABNORMAL, in ascending order, each change delivered to the Sequence Engine with the link as origin;
queues but for that answer (its place, at the end of the reply queue, is the model's choice, log 24), epoch, cache, counters and assertions are kept. -/
def Obligations.SilenceHasItsEffectsInOrder : Prop :=
  ∀ (s : State) (l : LinkId) (d : Nat), s.SessionLaw → (s.link l).state = .live → (s.link l).supervision = some d →
    timeLeft s.alarm.journal.elapsed d = 0 →
    let noted : Journal := (s.alarm.journal.append { kind := .linkSilent, origin := .link l }).zeroCredits l
    let lost : List RecordBody := if s.manager.holder = some l
      then [{ kind := .sessionLost, origin := .link l, detail := some s.manager.sessionId }] else []
    ∃ (m : Part) (bs : List RecordBody), exec (.supervisionExpiry l) s = s.becomes m.serve ∧
      m.alarm.journal = noted.appendAll (lost ++ bs) ∧
      m.alarm = (allPoints.filter fun p => decide (s.active.points[p].source = .silent l ∧
          s.conditions[p].abnormal = false)).foldl (fun a p => a.deliver (s.env (.link l)) p true)
        { s.alarm with journal := noted.appendAll lost } ∧
      m.manager = (if s.manager.holder = some l
        then { s.manager with check := none, holder := none, sessionId := 0, staging := none } else s.manager) ∧
      m.link l = (match (s.link l).executing with
        | some f => ({ s.link l with state := .silent, supervision := none }).finish f { status := .abandoned }
        | none => { s.link l with state := .silent, supervision := none }) ∧
      m.link (otherLink l) = s.link (otherLink l) ∧
      (∀ p : PointId, s.active.points[p].source = .silent l →
        m.conditions[p] = { s.conditions[p] with abnormal := true }) ∧
      (∀ p : PointId, s.active.points[p].source ≠ .silent l → m.conditions[p] = s.conditions[p]) ∧
      m.active = s.active ∧ m.lines = s.lines ∧ m.panel = { s.panel with relays := m.panel.relays }

/-! ## The laws every step keeps -/

/-- Every step keeps the laws of the Journal: 1 to 1024 records, consecutive; cursors on the ring or next to it; at
most 64 credits; gaps that account for what was lost. -/
def Obligations.StepKeepsTheJournalLaw : Prop :=
  ∀ s t : State, step s = .next t → s.alarm.journal.Law → t.alarm.journal.Law

/-- Every step keeps the laws of the links' queues, of the session lock and of the blocks' copies, taken together: at
most 4 frames wait and 8 reply places are taken; staging and id exactly while a session is held, by a link with
CONFIGURE; each copy equal to the active configuration. -/
def Obligations.StepKeepsQueuesSessionAndCopies : Prop :=
  ∀ s t : State, step s = .next t → s.QueueLaw → s.SessionLaw → s.CopyLaw → t.QueueLaw ∧ t.SessionLaw ∧ t.CopyLaw

/-- Every step keeps the laws of the two configurations: each field in its table, the active one sound by C1 to C4,
and exactly the defaults while the part is UNCONFIGURED. -/
def Obligations.StepKeepsTheConfigurationLaw : Prop :=
  ∀ s t : State, step s = .next t → s.ConfigLaw → t.ConfigLaw

/-- Every step keeps the laws of the alarm blocks: DISABLED exactly when not enabled, SHELVED exactly when in the
shelf table of at most 16, a group armed exactly while no member is active, lamps and claims as the points give them,
the channels on their targets. With the configurations in their tables it keeps the order of the shelf table too, earliest
expiry first; it keeps each condition its source's reading, with the Sequence Engine's copy; and each relay as its mode
and inputs put it. -/
def Obligations.StepKeepsTheAlarmLaws : Prop :=
  ∀ s t : State, step s = .next t →
    (s.AlarmLaw → t.AlarmLaw) ∧
    (s.AlarmLaw → s.ConfigLaw → s.alarm.ShelfOrderLaw → t.alarm.ShelfOrderLaw) ∧
    (s.ResolverLaw → t.ResolverLaw) ∧
    (s.AlarmLaw → s.RelayLaw → t.RelayLaw)

/-- Every step keeps the laws of the point table: hushed only in ALERTING, marked only when active, reminders only in
STANDING, occurrence numbers in range, and SUPPRESSED only ABNORMAL and only while the suppressor is active; and with them
the law of the sequences: ALERTING never in NOTICE, AWAIT_RESET only in HOLD, RETURNED only in FOLLOW, and no reminder in
NOTICE. -/
def Obligations.StepKeepsThePointLaws : Prop :=
  ∀ s t : State, step s = .next t → s.AlarmLaw → s.alarm.PointLaw s.active →
    t.alarm.PointLaw t.active ∧ (s.alarm.SequenceLaw s.active → t.alarm.SequenceLaw t.active)
end

