-- ==== Sys2Proof/Laws/State.lean ====
section
/-! SUPPORT. One lemma per field per update of the state's records; each is true by cases on the name and rfl. -/

namespace Sys2Proof.Machine

/-! ## Links -/

@[simp] theorem Part.setLink_link (s : Part) (l : LinkId) (v : Link) : (s.setLink l v).link l = v := by
  cases l <;> rfl

@[simp] theorem Part.setLink_link_other (s : Part) (l : LinkId) (v : Link) :
    (s.setLink l v).link (otherLink l) = s.link (otherLink l) := by
  cases l <;> rfl

theorem Part.setLink_link_ite (s : Part) (l m : LinkId) (v : Link) :
    (s.setLink l v).link m = if m = l then v else s.link m := by
  cases l <;> cases m <;> rfl

@[simp] theorem Part.setLink_setLink (s : Part) (l : LinkId) (v w : Link) :
    (s.setLink l v).setLink l w = s.setLink l w := by
  cases l <;> rfl

@[simp] theorem Part.setLink_self (s : Part) (l : LinkId) : s.setLink l (s.link l) = s := by
  cases l <;> rfl

@[simp] theorem Part.link_a (s : Part) : s.link .a = s.linkA := rfl

@[simp] theorem Part.link_b (s : Part) : s.link .b = s.linkB := rfl

@[simp] theorem Part.setLink_a_linkA (s : Part) (v : Link) : (s.setLink .a v).linkA = v := rfl

@[simp] theorem Part.setLink_a_linkB (s : Part) (v : Link) : (s.setLink .a v).linkB = s.linkB := rfl

@[simp] theorem Part.setLink_b_linkA (s : Part) (v : Link) : (s.setLink .b v).linkA = s.linkA := rfl

@[simp] theorem Part.setLink_b_linkB (s : Part) (v : Link) : (s.setLink .b v).linkB = v := rfl

@[simp] theorem Part.setLink_active (s : Part) (l : LinkId) (v : Link) : (s.setLink l v).active = s.active := by cases l <;> rfl

@[simp] theorem Part.setLink_manager (s : Part) (l : LinkId) (v : Link) : (s.setLink l v).manager = s.manager := by cases l <;> rfl

@[simp] theorem Part.setLink_lines (s : Part) (l : LinkId) (v : Link) : (s.setLink l v).lines = s.lines := by cases l <;> rfl

@[simp] theorem Part.setLink_conditions (s : Part) (l : LinkId) (v : Link) : (s.setLink l v).conditions = s.conditions := by cases l <;> rfl

@[simp] theorem Part.setLink_alarm (s : Part) (l : LinkId) (v : Link) : (s.setLink l v).alarm = s.alarm := by cases l <;> rfl

@[simp] theorem Part.setLink_panel (s : Part) (l : LinkId) (v : Link) : (s.setLink l v).panel = s.panel := by cases l <;> rfl

@[simp] theorem Part.setLink_baud (s : Part) (l : LinkId) (v : Link) : (s.setLink l v).baud = s.baud := by cases l <;> rfl

@[simp] theorem Part.setLink_free (s : Part) (l : LinkId) (v : Link) : (s.setLink l v).free = s.free := by cases l <;> rfl

@[simp] theorem Part.setLink_inputs (s : Part) (l : LinkId) (v : Link) : (s.setLink l v).inputs = s.inputs := by cases l <;> rfl

@[simp] theorem Part.setLink_scanTimer (s : Part) (l : LinkId) (v : Link) : (s.setLink l v).scanTimer = s.scanTimer := by cases l <;> rfl

@[simp] theorem Part.setLink_keyLines (s : Part) (l : LinkId) (v : Link) : (s.setLink l v).keyLines = s.keyLines := by cases l <;> rfl

/-! ## Streams -/

@[simp] theorem Journal.setStream_stream (j : Journal) (l : LinkId) (v : Stream) : (j.setStream l v).stream l = v := by
  cases l <;> rfl

@[simp] theorem Journal.setStream_stream_other (j : Journal) (l : LinkId) (v : Stream) :
    (j.setStream l v).stream (otherLink l) = j.stream (otherLink l) := by
  cases l <;> rfl

theorem Journal.setStream_stream_ite (j : Journal) (l m : LinkId) (v : Stream) :
    (j.setStream l v).stream m = if m = l then v else j.stream m := by
  cases l <;> cases m <;> rfl

@[simp] theorem Journal.stream_a (j : Journal) : j.stream .a = j.streamA := rfl

@[simp] theorem Journal.stream_b (j : Journal) : j.stream .b = j.streamB := rfl

@[simp] theorem Journal.setStream_ring (j : Journal) (l : LinkId) (v : Stream) : (j.setStream l v).ring = j.ring := by
  cases l <;> rfl

@[simp] theorem Journal.setStream_nextSeq (j : Journal) (l : LinkId) (v : Stream) : (j.setStream l v).nextSeq = j.nextSeq := by
  cases l <;> rfl

@[simp] theorem Journal.setStream_clock (j : Journal) (l : LinkId) (v : Stream) : (j.setStream l v).clock = j.clock := by
  cases l <;> rfl

@[simp] theorem Journal.setStream_basis (j : Journal) (l : LinkId) (v : Stream) : (j.setStream l v).basis = j.basis := by
  cases l <;> rfl

@[simp] theorem Journal.setStream_elapsed (j : Journal) (l : LinkId) (v : Stream) : (j.setStream l v).elapsed = j.elapsed := by
  cases l <;> rfl

/-! ## Configuration and tones -/

@[simp] theorem Configuration.setLink_link (c : Configuration) (l : LinkId) (v : LinkConfig) :
    (c.setLink l v).link l = v := by
  cases l <;> rfl

@[simp] theorem Configuration.setLink_link_other (c : Configuration) (l : LinkId) (v : LinkConfig) :
    (c.setLink l v).link (otherLink l) = c.link (otherLink l) := by
  cases l <;> rfl

@[simp] theorem Configuration.setLink_points (c : Configuration) (l : LinkId) (v : LinkConfig) :
    (c.setLink l v).points = c.points := by
  cases l <;> rfl

@[simp] theorem Configuration.setLink_lines (c : Configuration) (l : LinkId) (v : LinkConfig) :
    (c.setLink l v).lines = c.lines := by
  cases l <;> rfl

@[simp] theorem Configuration.setLink_tones (c : Configuration) (l : LinkId) (v : LinkConfig) :
    (c.setLink l v).tones = c.tones := by
  cases l <;> rfl

@[simp] theorem Configuration.setLink_relays (c : Configuration) (l : LinkId) (v : LinkConfig) :
    (c.setLink l v).relays = c.relays := by
  cases l <;> rfl

@[simp] theorem Configuration.setLink_global (c : Configuration) (l : LinkId) (v : LinkConfig) :
    (c.setLink l v).global = c.global := by
  cases l <;> rfl

@[simp] theorem ToneSet.setLevel_level (t : ToneSet) (l : Level) (v : LevelTone) : (t.setLevel l v).level l = v := by
  cases l <;> rfl

theorem ToneSet.setLevel_level_ne (t : ToneSet) {l m : Level} (v : LevelTone) (h : m ≠ l) :
    (t.setLevel l v).level m = t.level m := by
  cases l <;> cases m <;> first | rfl | exact absurd rfl h

/-! ## Sounder -/

@[simp] theorem Sounder.setChannel_channel (s : Sounder) (c : ChanId) (v : Channel) :
    (s.setChannel c v).channel c = v := by
  cases c <;> rfl

theorem Sounder.setChannel_channel_ne (s : Sounder) {c d : ChanId} (v : Channel) (h : d ≠ c) :
    (s.setChannel c v).channel d = s.channel d := by
  cases c <;> cases d <;> first | rfl | exact absurd rfl h

@[simp] theorem Sounder.setChannel_tones (s : Sounder) (c : ChanId) (v : Channel) : (s.setChannel c v).tones = s.tones := by
  cases c <;> rfl

@[simp] theorem Sounder.setChannel_dual (s : Sounder) (c : ChanId) (v : Channel) : (s.setChannel c v).dual = s.dual := by
  cases c <;> rfl

@[simp] theorem Sounder.setChannel_claims1 (s : Sounder) (c : ChanId) (v : Channel) : (s.setChannel c v).claims1 = s.claims1 := by
  cases c <;> rfl

@[simp] theorem Sounder.setChannel_claims2 (s : Sounder) (c : ChanId) (v : Channel) : (s.setChannel c v).claims2 = s.claims2 := by
  cases c <;> rfl

@[simp] theorem Sounder.setChannel_claims3 (s : Sounder) (c : ChanId) (v : Channel) : (s.setChannel c v).claims3 = s.claims3 := by
  cases c <;> rfl

@[simp] theorem Sounder.setChannel_dropped (s : Sounder) (c : ChanId) (v : Channel) : (s.setChannel c v).dropped = s.dropped := by
  cases c <;> rfl

/-! ## Panel -/

@[simp] theorem KeyLines.setLine_line (x : KeyLines) (k : KeyId) (v : KeyLine) : (x.setLine k v).line k = v := by
  cases k <;> rfl

theorem KeyLines.setLine_line_ne (x : KeyLines) {k m : KeyId} (v : KeyLine) (h : m ≠ k) :
    (x.setLine k v).line m = x.line m := by
  cases k <;> cases m <;> first | rfl | exact absurd rfl h

@[simp] theorem KeyLines.restarted_line (x : KeyLines) (k : KeyId) : x.restarted.line k = ⟨(x.line k).level, some 1⟩ := by
  cases k <;> rfl

@[simp] theorem Part.setKeyLine_keyLine (s : Part) (k : KeyId) (v : KeyLine) : (s.setKeyLine k v).keyLine k = v := by
  cases k <;> rfl

@[simp] theorem Part.setKeyLine_active (s : Part) (k : KeyId) (v : KeyLine) : (s.setKeyLine k v).active = s.active := rfl

@[simp] theorem Part.setKeyLine_manager (s : Part) (k : KeyId) (v : KeyLine) : (s.setKeyLine k v).manager = s.manager := rfl

@[simp] theorem Part.setKeyLine_inputs (s : Part) (k : KeyId) (v : KeyLine) : (s.setKeyLine k v).inputs = s.inputs := rfl

@[simp] theorem Part.setKeyLine_scanTimer (s : Part) (k : KeyId) (v : KeyLine) : (s.setKeyLine k v).scanTimer = s.scanTimer := rfl

@[simp] theorem Part.setKeyLine_lines (s : Part) (k : KeyId) (v : KeyLine) : (s.setKeyLine k v).lines = s.lines := rfl

@[simp] theorem Part.setKeyLine_conditions (s : Part) (k : KeyId) (v : KeyLine) : (s.setKeyLine k v).conditions = s.conditions := rfl

@[simp] theorem Part.setKeyLine_alarm (s : Part) (k : KeyId) (v : KeyLine) : (s.setKeyLine k v).alarm = s.alarm := rfl

@[simp] theorem Part.setKeyLine_panel (s : Part) (k : KeyId) (v : KeyLine) : (s.setKeyLine k v).panel = s.panel := rfl

@[simp] theorem Part.setKeyLine_linkA (s : Part) (k : KeyId) (v : KeyLine) : (s.setKeyLine k v).linkA = s.linkA := rfl

@[simp] theorem Part.setKeyLine_linkB (s : Part) (k : KeyId) (v : KeyLine) : (s.setKeyLine k v).linkB = s.linkB := rfl

@[simp] theorem Part.setKeyLine_baud (s : Part) (k : KeyId) (v : KeyLine) : (s.setKeyLine k v).baud = s.baud := rfl

@[simp] theorem Part.setKeyLine_free (s : Part) (k : KeyId) (v : KeyLine) : (s.setKeyLine k v).free = s.free := rfl

@[simp] theorem Panel.setKey_key (p : Panel) (k : KeyId) (v : KeyQualifier) : (p.setKey k v).key k = v := by
  cases k <;> rfl

theorem Panel.setKey_key_ne (p : Panel) {k m : KeyId} (v : KeyQualifier) (h : m ≠ k) :
    (p.setKey k v).key m = p.key m := by
  cases k <;> cases m <;> first | rfl | exact absurd rfl h

@[simp] theorem Panel.setKey_testSet (p : Panel) (k : KeyId) (v : KeyQualifier) : (p.setKey k v).testSet = p.testSet := by
  cases k <;> rfl

@[simp] theorem Panel.setKey_testTimerA (p : Panel) (k : KeyId) (v : KeyQualifier) : (p.setKey k v).testTimerA = p.testTimerA := by
  cases k <;> rfl

@[simp] theorem Panel.setKey_testTimerB (p : Panel) (k : KeyId) (v : KeyQualifier) : (p.setKey k v).testTimerB = p.testTimerB := by
  cases k <;> rfl

@[simp] theorem Panel.setKey_flash (p : Panel) (k : KeyId) (v : KeyQualifier) : (p.setKey k v).flash = p.flash := by
  cases k <;> rfl

@[simp] theorem Panel.setKey_refresh (p : Panel) (k : KeyId) (v : KeyQualifier) : (p.setKey k v).refresh = p.refresh := by
  cases k <;> rfl

@[simp] theorem Panel.setKey_drivers (p : Panel) (k : KeyId) (v : KeyQualifier) : (p.setKey k v).drivers = p.drivers := by
  cases k <;> rfl

@[simp] theorem Panel.setKey_relays (p : Panel) (k : KeyId) (v : KeyQualifier) : (p.setKey k v).relays = p.relays := by
  cases k <;> rfl

@[simp] theorem Panel.setTestTimer_testTimer (p : Panel) (l : LinkId) (v : Timer) :
    (p.setTestTimer l v).testTimer l = v := by
  cases l <;> rfl

@[simp] theorem Panel.setTestTimer_testTimer_other (p : Panel) (l : LinkId) (v : Timer) :
    (p.setTestTimer l v).testTimer (otherLink l) = p.testTimer (otherLink l) := by
  cases l <;> rfl

@[simp] theorem Panel.setTestTimer_keyAck (p : Panel) (l : LinkId) (v : Timer) : (p.setTestTimer l v).keyAck = p.keyAck := by
  cases l <;> rfl

@[simp] theorem Panel.setTestTimer_keySilence (p : Panel) (l : LinkId) (v : Timer) : (p.setTestTimer l v).keySilence = p.keySilence := by
  cases l <;> rfl

@[simp] theorem Panel.setTestTimer_keyReset (p : Panel) (l : LinkId) (v : Timer) : (p.setTestTimer l v).keyReset = p.keyReset := by
  cases l <;> rfl

@[simp] theorem Panel.setTestTimer_keyTest (p : Panel) (l : LinkId) (v : Timer) : (p.setTestTimer l v).keyTest = p.keyTest := by
  cases l <;> rfl

@[simp] theorem Panel.setTestTimer_testSet (p : Panel) (l : LinkId) (v : Timer) : (p.setTestTimer l v).testSet = p.testSet := by
  cases l <;> rfl

@[simp] theorem Panel.setTestTimer_flash (p : Panel) (l : LinkId) (v : Timer) : (p.setTestTimer l v).flash = p.flash := by
  cases l <;> rfl

@[simp] theorem Panel.setTestTimer_refresh (p : Panel) (l : LinkId) (v : Timer) : (p.setTestTimer l v).refresh = p.refresh := by
  cases l <;> rfl

@[simp] theorem Panel.setTestTimer_drivers (p : Panel) (l : LinkId) (v : Timer) : (p.setTestTimer l v).drivers = p.drivers := by
  cases l <;> rfl

@[simp] theorem Panel.setTestTimer_relays (p : Panel) (l : LinkId) (v : Timer) : (p.setTestTimer l v).relays = p.relays := by
  cases l <;> rfl

@[simp] theorem TestSet.setLink_hasLink (t : TestSet) (l : LinkId) (v : Bool) : (t.setLink l v).hasLink l = v := by
  cases l <;> rfl

@[simp] theorem TestSet.setLink_hasLink_other (t : TestSet) (l : LinkId) (v : Bool) :
    (t.setLink l v).hasLink (otherLink l) = t.hasLink (otherLink l) := by
  cases l <;> rfl

@[simp] theorem TestSet.setLink_key (t : TestSet) (l : LinkId) (v : Bool) : (t.setLink l v).key = t.key := by
  cases l <;> rfl

/-- A test set with a link in it is active. -/
@[simp] theorem TestSet.setLink_true_active (t : TestSet) (l : LinkId) : (t.setLink l true).active = true := by
  cases l <;> cases t <;> simp [TestSet.setLink, TestSet.active]

/-! ## Conditions -/

@[simp] theorem Condition.setBy_by (c : Condition) (l : LinkId) (v : Bool) : (c.setBy l v).by l = v := by
  cases l <;> rfl

@[simp] theorem Condition.setBy_by_other (c : Condition) (l : LinkId) (v : Bool) :
    (c.setBy l v).by (otherLink l) = c.by (otherLink l) := by
  cases l <;> rfl

@[simp] theorem Condition.setBy_abnormal (c : Condition) (l : LinkId) (v : Bool) :
    (c.setBy l v).abnormal = c.abnormal := by
  cases l <;> rfl

/-! ## Tables -/

@[simp] theorem getElem_tabulate {n : Nat} {α : Type} (f : Fin n → α) (i : Nat) (h : i < n) :
    (tabulate f)[i] = f ⟨i, h⟩ := by
  simp [tabulate]

/-- An entry of a table after one of its entries is replaced. -/
theorem getElem_set_fin {n : Nat} {α : Type} (v : Vector α n) (p q : Fin n) (x : α) :
    (v.set p x)[q] = if q = p then x else v[q] := by
  simp only [Fin.getElem_fin, Vector.getElem_set, Fin.ext_iff, eq_comm]

/-! ## Points and chatter records -/

theorem Alarm.setPoint_points (a : Alarm) (p q : PointId) (d : Point) :
    (a.setPoint p d).points[q] = if q = p then d else a.points[q] := getElem_set_fin ..

theorem Alarm.setPoint_lamps (a : Alarm) (p q : PointId) (d : Point) :
    (a.setPoint p d).lamps[q] = if q = p then d.pattern else a.lamps[q] := getElem_set_fin ..

theorem Alarm.setChatter_chatter (a : Alarm) (p q : PointId) (c : Chatter) :
    (a.setChatter p c).chatter[q] = if q = p then c else a.chatter[q] := getElem_set_fin ..

@[simp] theorem Alarm.setPoint_groups (a : Alarm) (p : PointId) (d : Point) : (a.setPoint p d).groups = a.groups := rfl

@[simp] theorem Alarm.setPoint_shelf (a : Alarm) (p : PointId) (d : Point) : (a.setPoint p d).shelf = a.shelf := rfl

@[simp] theorem Alarm.setPoint_chatter (a : Alarm) (p : PointId) (d : Point) : (a.setPoint p d).chatter = a.chatter := rfl

@[simp] theorem Alarm.setPoint_sounder (a : Alarm) (p : PointId) (d : Point) : (a.setPoint p d).sounder = a.sounder := rfl

@[simp] theorem Alarm.setPoint_journal (a : Alarm) (p : PointId) (d : Point) : (a.setPoint p d).journal = a.journal := rfl

@[simp] theorem Alarm.setChatter_points (a : Alarm) (p : PointId) (c : Chatter) : (a.setChatter p c).points = a.points := rfl

@[simp] theorem Alarm.setChatter_groups (a : Alarm) (p : PointId) (c : Chatter) : (a.setChatter p c).groups = a.groups := rfl

@[simp] theorem Alarm.setChatter_shelf (a : Alarm) (p : PointId) (c : Chatter) : (a.setChatter p c).shelf = a.shelf := rfl

@[simp] theorem Alarm.setChatter_lamps (a : Alarm) (p : PointId) (c : Chatter) : (a.setChatter p c).lamps = a.lamps := rfl

@[simp] theorem Alarm.setChatter_sounder (a : Alarm) (p : PointId) (c : Chatter) : (a.setChatter p c).sounder = a.sounder := rfl

@[simp] theorem Alarm.setChatter_journal (a : Alarm) (p : PointId) (c : Chatter) : (a.setChatter p c).journal = a.journal := rfl

@[simp] theorem Alarm.passClaim_points (e : Env) (p : PointId) (a : Alarm) : (a.passClaim e p).points = a.points := rfl

@[simp] theorem Alarm.passClaim_groups (e : Env) (p : PointId) (a : Alarm) : (a.passClaim e p).groups = a.groups := rfl

@[simp] theorem Alarm.passClaim_shelf (e : Env) (p : PointId) (a : Alarm) : (a.passClaim e p).shelf = a.shelf := rfl

@[simp] theorem Alarm.passClaim_chatter (e : Env) (p : PointId) (a : Alarm) : (a.passClaim e p).chatter = a.chatter := rfl

@[simp] theorem Alarm.passClaim_lamps (e : Env) (p : PointId) (a : Alarm) : (a.passClaim e p).lamps = a.lamps := rfl

@[simp] theorem Alarm.passClaim_journal (e : Env) (p : PointId) (a : Alarm) : (a.passClaim e p).journal = a.journal := rfl

@[simp] theorem Alarm.append_points (b : RecordBody) (a : Alarm) : (a.append b).points = a.points := rfl

@[simp] theorem Alarm.append_groups (b : RecordBody) (a : Alarm) : (a.append b).groups = a.groups := rfl

@[simp] theorem Alarm.append_shelf (b : RecordBody) (a : Alarm) : (a.append b).shelf = a.shelf := rfl

@[simp] theorem Alarm.append_chatter (b : RecordBody) (a : Alarm) : (a.append b).chatter = a.chatter := rfl

@[simp] theorem Alarm.append_lamps (b : RecordBody) (a : Alarm) : (a.append b).lamps = a.lamps := rfl

@[simp] theorem Alarm.append_sounder (b : RecordBody) (a : Alarm) : (a.append b).sounder = a.sounder := rfl

@[simp] theorem Alarm.append_journal (b : RecordBody) (a : Alarm) : (a.append b).journal = a.journal.append b := rfl

@[simp] theorem Alarm.placeEntry_points (n : ShelfEntry) (a : Alarm) : (a.placeEntry n).points = a.points := rfl

@[simp] theorem Alarm.removeEntry_points (p : PointId) (a : Alarm) : (a.removeEntry p).points = a.points := rfl

@[simp] theorem Alarm.placeEntry_groups (n : ShelfEntry) (a : Alarm) : (a.placeEntry n).groups = a.groups := rfl

@[simp] theorem Alarm.removeEntry_groups (p : PointId) (a : Alarm) : (a.removeEntry p).groups = a.groups := rfl

@[simp] theorem Alarm.placeEntry_chatter (n : ShelfEntry) (a : Alarm) : (a.placeEntry n).chatter = a.chatter := rfl

@[simp] theorem Alarm.removeEntry_chatter (p : PointId) (a : Alarm) : (a.removeEntry p).chatter = a.chatter := rfl

@[simp] theorem Alarm.placeEntry_lamps (n : ShelfEntry) (a : Alarm) : (a.placeEntry n).lamps = a.lamps := rfl

@[simp] theorem Alarm.removeEntry_lamps (p : PointId) (a : Alarm) : (a.removeEntry p).lamps = a.lamps := rfl

@[simp] theorem Alarm.placeEntry_sounder (n : ShelfEntry) (a : Alarm) : (a.placeEntry n).sounder = a.sounder := rfl

@[simp] theorem Alarm.removeEntry_sounder (p : PointId) (a : Alarm) : (a.removeEntry p).sounder = a.sounder := rfl

@[simp] theorem Alarm.placeEntry_journal (n : ShelfEntry) (a : Alarm) : (a.placeEntry n).journal = a.journal := rfl

@[simp] theorem Alarm.removeEntry_journal (p : PointId) (a : Alarm) : (a.removeEntry p).journal = a.journal := rfl

@[simp] theorem Alarm.chirp_points (a : Alarm) : a.chirp.points = a.points := rfl

@[simp] theorem Alarm.chirp_groups (a : Alarm) : a.chirp.groups = a.groups := rfl

@[simp] theorem Alarm.chirp_shelf (a : Alarm) : a.chirp.shelf = a.shelf := rfl

@[simp] theorem Alarm.chirp_chatter (a : Alarm) : a.chirp.chatter = a.chatter := rfl

@[simp] theorem Alarm.chirp_lamps (a : Alarm) : a.chirp.lamps = a.lamps := rfl

@[simp] theorem Alarm.chirp_journal (a : Alarm) : a.chirp.journal = a.journal := rfl

/-! ## Parts -/

@[simp] theorem Part.act_active (o : Origin) (f : Env → Alarm → Alarm) (s : Part) : (s.act o f).active = s.active := rfl

@[simp] theorem Part.act_manager (o : Origin) (f : Env → Alarm → Alarm) (s : Part) : (s.act o f).manager = s.manager := rfl

@[simp] theorem Part.act_lines (o : Origin) (f : Env → Alarm → Alarm) (s : Part) : (s.act o f).lines = s.lines := rfl

@[simp] theorem Part.act_conditions (o : Origin) (f : Env → Alarm → Alarm) (s : Part) : (s.act o f).conditions = s.conditions := rfl

@[simp] theorem Part.act_panel (o : Origin) (f : Env → Alarm → Alarm) (s : Part) : (s.act o f).panel = s.panel := rfl

@[simp] theorem Part.act_linkA (o : Origin) (f : Env → Alarm → Alarm) (s : Part) : (s.act o f).linkA = s.linkA := rfl

@[simp] theorem Part.act_linkB (o : Origin) (f : Env → Alarm → Alarm) (s : Part) : (s.act o f).linkB = s.linkB := rfl

@[simp] theorem Part.act_baud (o : Origin) (f : Env → Alarm → Alarm) (s : Part) : (s.act o f).baud = s.baud := rfl

@[simp] theorem Part.act_free (o : Origin) (f : Env → Alarm → Alarm) (s : Part) : (s.act o f).free = s.free := rfl

@[simp] theorem Part.act_inputs (o : Origin) (f : Env → Alarm → Alarm) (s : Part) : (s.act o f).inputs = s.inputs := rfl

@[simp] theorem Part.act_scanTimer (o : Origin) (f : Env → Alarm → Alarm) (s : Part) : (s.act o f).scanTimer = s.scanTimer := rfl

@[simp] theorem Part.act_keyLines (o : Origin) (f : Env → Alarm → Alarm) (s : Part) : (s.act o f).keyLines = s.keyLines := rfl

@[simp] theorem Part.act_alarm (o : Origin) (f : Env → Alarm → Alarm) (s : Part) :
    (s.act o f).alarm = f (s.env o) s.alarm := rfl

@[simp] theorem Part.settleRelays_active (s : Part) : (s.settleRelays).active = s.active := rfl

@[simp] theorem Part.settleRelays_manager (s : Part) : (s.settleRelays).manager = s.manager := rfl

@[simp] theorem Part.settleRelays_lines (s : Part) : (s.settleRelays).lines = s.lines := rfl

@[simp] theorem Part.settleRelays_conditions (s : Part) : (s.settleRelays).conditions = s.conditions := rfl

@[simp] theorem Part.settleRelays_alarm (s : Part) : (s.settleRelays).alarm = s.alarm := rfl

@[simp] theorem Part.settleRelays_linkA (s : Part) : (s.settleRelays).linkA = s.linkA := rfl

@[simp] theorem Part.settleRelays_linkB (s : Part) : (s.settleRelays).linkB = s.linkB := rfl

@[simp] theorem Part.settleRelays_baud (s : Part) : (s.settleRelays).baud = s.baud := rfl

@[simp] theorem Part.settleRelays_free (s : Part) : (s.settleRelays).free = s.free := rfl

@[simp] theorem Part.settleRelays_inputs (s : Part) : (s.settleRelays).inputs = s.inputs := rfl

@[simp] theorem Part.settleRelays_scanTimer (s : Part) : (s.settleRelays).scanTimer = s.scanTimer := rfl

@[simp] theorem Part.settleRelays_keyLines (s : Part) : (s.settleRelays).keyLines = s.keyLines := rfl

@[simp] theorem Part.settleRelays_panel_keyAck (s : Part) : s.settleRelays.panel.keyAck = s.panel.keyAck := rfl

@[simp] theorem Part.settleRelays_panel_keySilence (s : Part) : s.settleRelays.panel.keySilence = s.panel.keySilence := rfl

@[simp] theorem Part.settleRelays_panel_keyReset (s : Part) : s.settleRelays.panel.keyReset = s.panel.keyReset := rfl

@[simp] theorem Part.settleRelays_panel_keyTest (s : Part) : s.settleRelays.panel.keyTest = s.panel.keyTest := rfl

@[simp] theorem Part.settleRelays_panel_testSet (s : Part) : s.settleRelays.panel.testSet = s.panel.testSet := rfl

@[simp] theorem Part.settleRelays_panel_testTimerA (s : Part) : s.settleRelays.panel.testTimerA = s.panel.testTimerA := rfl

@[simp] theorem Part.settleRelays_panel_testTimerB (s : Part) : s.settleRelays.panel.testTimerB = s.panel.testTimerB := rfl

@[simp] theorem Part.settleRelays_panel_flash (s : Part) : s.settleRelays.panel.flash = s.panel.flash := rfl

@[simp] theorem Part.settleRelays_panel_refresh (s : Part) : s.settleRelays.panel.refresh = s.panel.refresh := rfl

@[simp] theorem Part.settleRelays_panel_drivers (s : Part) : s.settleRelays.panel.drivers = s.panel.drivers := rfl

@[simp] theorem Part.settleRelays_relay (s : Part) (r : RelayId) : s.settleRelays.panel.relays[r] = s.relayOn r := by
  simp [Part.settleRelays]

@[simp] theorem Part.append_active (b : RecordBody) (s : Part) : (s.append b).active = s.active := rfl

@[simp] theorem Part.append_manager (b : RecordBody) (s : Part) : (s.append b).manager = s.manager := rfl

@[simp] theorem Part.append_lines (b : RecordBody) (s : Part) : (s.append b).lines = s.lines := rfl

@[simp] theorem Part.append_conditions (b : RecordBody) (s : Part) : (s.append b).conditions = s.conditions := rfl

@[simp] theorem Part.append_panel (b : RecordBody) (s : Part) : (s.append b).panel = s.panel := rfl

@[simp] theorem Part.append_linkA (b : RecordBody) (s : Part) : (s.append b).linkA = s.linkA := rfl

@[simp] theorem Part.append_linkB (b : RecordBody) (s : Part) : (s.append b).linkB = s.linkB := rfl

@[simp] theorem Part.append_baud (b : RecordBody) (s : Part) : (s.append b).baud = s.baud := rfl

@[simp] theorem Part.append_free (b : RecordBody) (s : Part) : (s.append b).free = s.free := rfl

@[simp] theorem Part.append_inputs (b : RecordBody) (s : Part) : (s.append b).inputs = s.inputs := rfl

@[simp] theorem Part.append_scanTimer (b : RecordBody) (s : Part) : (s.append b).scanTimer = s.scanTimer := rfl

@[simp] theorem Part.append_keyLines (b : RecordBody) (s : Part) : (s.append b).keyLines = s.keyLines := rfl

@[simp] theorem Part.append_alarm (b : RecordBody) (s : Part) : (s.append b).alarm = s.alarm.append b := rfl

@[simp] theorem Part.setConditionRecord_active (s : Part) (p : PointId) (c : Condition) : (s.setConditionRecord p c).active = s.active := rfl

@[simp] theorem Part.setConditionRecord_manager (s : Part) (p : PointId) (c : Condition) : (s.setConditionRecord p c).manager = s.manager := rfl

@[simp] theorem Part.setConditionRecord_lines (s : Part) (p : PointId) (c : Condition) : (s.setConditionRecord p c).lines = s.lines := rfl

@[simp] theorem Part.setConditionRecord_alarm (s : Part) (p : PointId) (c : Condition) : (s.setConditionRecord p c).alarm = s.alarm := rfl

@[simp] theorem Part.setConditionRecord_panel (s : Part) (p : PointId) (c : Condition) : (s.setConditionRecord p c).panel = s.panel := rfl

@[simp] theorem Part.setConditionRecord_linkA (s : Part) (p : PointId) (c : Condition) : (s.setConditionRecord p c).linkA = s.linkA := rfl

@[simp] theorem Part.setConditionRecord_linkB (s : Part) (p : PointId) (c : Condition) : (s.setConditionRecord p c).linkB = s.linkB := rfl

@[simp] theorem Part.setConditionRecord_baud (s : Part) (p : PointId) (c : Condition) : (s.setConditionRecord p c).baud = s.baud := rfl

@[simp] theorem Part.setConditionRecord_free (s : Part) (p : PointId) (c : Condition) : (s.setConditionRecord p c).free = s.free := rfl

@[simp] theorem Part.setConditionRecord_inputs (s : Part) (p : PointId) (c : Condition) : (s.setConditionRecord p c).inputs = s.inputs := rfl

@[simp] theorem Part.setConditionRecord_scanTimer (s : Part) (p : PointId) (c : Condition) : (s.setConditionRecord p c).scanTimer = s.scanTimer := rfl

@[simp] theorem Part.setConditionRecord_keyLines (s : Part) (p : PointId) (c : Condition) : (s.setConditionRecord p c).keyLines = s.keyLines := rfl

@[simp] theorem Part.setJournal_active (s : Part) (j : Journal) : (s.setJournal j).active = s.active := rfl

@[simp] theorem Part.setJournal_manager (s : Part) (j : Journal) : (s.setJournal j).manager = s.manager := rfl

@[simp] theorem Part.setJournal_lines (s : Part) (j : Journal) : (s.setJournal j).lines = s.lines := rfl

@[simp] theorem Part.setJournal_conditions (s : Part) (j : Journal) : (s.setJournal j).conditions = s.conditions := rfl

@[simp] theorem Part.setJournal_panel (s : Part) (j : Journal) : (s.setJournal j).panel = s.panel := rfl

@[simp] theorem Part.setJournal_linkA (s : Part) (j : Journal) : (s.setJournal j).linkA = s.linkA := rfl

@[simp] theorem Part.setJournal_linkB (s : Part) (j : Journal) : (s.setJournal j).linkB = s.linkB := rfl

@[simp] theorem Part.setJournal_baud (s : Part) (j : Journal) : (s.setJournal j).baud = s.baud := rfl

@[simp] theorem Part.setJournal_free (s : Part) (j : Journal) : (s.setJournal j).free = s.free := rfl

@[simp] theorem Part.setJournal_inputs (s : Part) (j : Journal) : (s.setJournal j).inputs = s.inputs := rfl

@[simp] theorem Part.setJournal_scanTimer (s : Part) (j : Journal) : (s.setJournal j).scanTimer = s.scanTimer := rfl

@[simp] theorem Part.setJournal_keyLines (s : Part) (j : Journal) : (s.setJournal j).keyLines = s.keyLines := rfl

@[simp] theorem Part.setStaging_active (s : Part) (c : Configuration) : (s.setStaging c).active = s.active := rfl

@[simp] theorem Part.setStaging_lines (s : Part) (c : Configuration) : (s.setStaging c).lines = s.lines := rfl

@[simp] theorem Part.setStaging_conditions (s : Part) (c : Configuration) : (s.setStaging c).conditions = s.conditions := rfl

@[simp] theorem Part.setStaging_alarm (s : Part) (c : Configuration) : (s.setStaging c).alarm = s.alarm := rfl

@[simp] theorem Part.setStaging_panel (s : Part) (c : Configuration) : (s.setStaging c).panel = s.panel := rfl

@[simp] theorem Part.setStaging_linkA (s : Part) (c : Configuration) : (s.setStaging c).linkA = s.linkA := rfl

@[simp] theorem Part.setStaging_linkB (s : Part) (c : Configuration) : (s.setStaging c).linkB = s.linkB := rfl

@[simp] theorem Part.setStaging_baud (s : Part) (c : Configuration) : (s.setStaging c).baud = s.baud := rfl

@[simp] theorem Part.setStaging_free (s : Part) (c : Configuration) : (s.setStaging c).free = s.free := rfl

@[simp] theorem Part.setStaging_inputs (s : Part) (c : Configuration) : (s.setStaging c).inputs = s.inputs := rfl

@[simp] theorem Part.setStaging_scanTimer (s : Part) (c : Configuration) : (s.setStaging c).scanTimer = s.scanTimer := rfl

@[simp] theorem Part.setStaging_keyLines (s : Part) (c : Configuration) : (s.setStaging c).keyLines = s.keyLines := rfl

@[simp] theorem Part.act_link (o : Origin) (f : Env → Alarm → Alarm) (s : Part) (l : LinkId) : (s.act o f).link l = s.link l := by cases l <;> rfl

@[simp] theorem Part.settleRelays_link (s : Part) (l : LinkId) : (s.settleRelays).link l = s.link l := by cases l <;> rfl

@[simp] theorem Part.append_link (b : RecordBody) (s : Part) (l : LinkId) : (s.append b).link l = s.link l := by cases l <;> rfl

@[simp] theorem Part.setConditionRecord_link (s : Part) (p : PointId) (c : Condition) (l : LinkId) : (s.setConditionRecord p c).link l = s.link l := by cases l <;> rfl

@[simp] theorem Part.setJournal_link (s : Part) (j : Journal) (l : LinkId) : (s.setJournal j).link l = s.link l := by cases l <;> rfl

@[simp] theorem Part.setStaging_link (s : Part) (c : Configuration) (l : LinkId) : (s.setStaging c).link l = s.link l := by cases l <;> rfl

end Sys2Proof.Machine
end

