-- ==== Sys2Proof/Laws/Journal.lean ====
section
/-! SUPPORT. The Journal's operations: the numbering as a circle, what an append does, and the Journal's law kept by each
operation. -/

namespace Sys2Proof.Machine

/-! ## The numbering (R120) -/

theorem isSeq_seqAfter {n : Nat} (h : isSeq n) : isSeq (seqAfter n) := by
  unfold isSeq seqAfter Config.maxSeq at *
  split <;> omega

theorem isSeq_seqBefore {n : Nat} (h : isSeq n) : isSeq (seqBefore n) := by
  unfold isSeq seqBefore Config.maxSeq at *
  split <;> omega

@[simp] theorem seqAfter_seqBefore {n : Nat} (h : isSeq n) : seqAfter (seqBefore n) = n := by
  unfold isSeq seqAfter seqBefore Config.maxSeq at *
  split <;> split <;> omega

@[simp] theorem seqBefore_seqAfter {n : Nat} (h : isSeq n) : seqBefore (seqAfter n) = n := by
  unfold isSeq seqAfter seqBefore Config.maxSeq at *
  split <;> split <;> omega

theorem seqAfter_injective {m n : Nat} (hm : isSeq m) (hn : isSeq n) (h : seqAfter m = seqAfter n) : m = n := by
  rw [← seqBefore_seqAfter hm, ← seqBefore_seqAfter hn, h]

/-- The steps between two sequence numbers, without the remainder. -/
theorem seqSteps_eq {s n : Nat} (hs : isSeq s) (hn : isSeq n) :
    seqSteps s n = if s ≤ n then n - s else n + Config.maxSeq - s := by
  unfold isSeq seqSteps Config.maxSeq at *
  split <;> omega

@[simp] theorem seqSteps_self {s : Nat} (hs : isSeq s) : seqSteps s s = 0 := by
  simp [seqSteps_eq hs hs]

theorem seqSteps_eq_zero {s n : Nat} (hs : isSeq s) (hn : isSeq n) : seqSteps s n = 0 ↔ s = n := by
  rw [seqSteps_eq hs hn]
  unfold isSeq Config.maxSeq at *
  split <;> omega

theorem seqSteps_lt {s n : Nat} (hs : isSeq s) (hn : isSeq n) : seqSteps s n < Config.maxSeq := by
  rw [seqSteps_eq hs hn]
  unfold isSeq Config.maxSeq at *
  split <;> omega

theorem seqSteps_seqAfter_right {s n : Nat} (hs : isSeq s) (hn : isSeq n) (h : seqSteps s n + 1 < Config.maxSeq) :
    seqSteps s (seqAfter n) = seqSteps s n + 1 := by
  rw [seqSteps_eq hs hn] at *
  rw [seqSteps_eq hs (isSeq_seqAfter hn)]
  unfold isSeq seqAfter Config.maxSeq at *
  split at h <;> split <;> split <;> omega

theorem seqSteps_seqAfter_left {s n : Nat} (hs : isSeq s) (hn : isSeq n) (h : s ≠ n) :
    seqSteps (seqAfter s) n + 1 = seqSteps s n := by
  rw [seqSteps_eq hs hn, seqSteps_eq (isSeq_seqAfter hs) hn]
  unfold isSeq seqAfter Config.maxSeq at *
  split <;> split <;> split <;> omega

theorem seqSteps_seqAfter_both {s n : Nat} (hs : isSeq s) (hn : isSeq n) :
    seqSteps (seqAfter s) (seqAfter n) = seqSteps s n := by
  rw [seqSteps_eq hs hn, seqSteps_eq (isSeq_seqAfter hs) (isSeq_seqAfter hn)]
  unfold isSeq seqAfter Config.maxSeq at *
  repeat' split
  all_goals omega

/-- Two numbers as many steps behind a third are one number. -/
theorem seqSteps_injective {r s n : Nat} (hr : isSeq r) (hs : isSeq s) (hn : isSeq n)
    (h : seqSteps r n = seqSteps s n) : r = s := by
  rw [seqSteps_eq hr hn, seqSteps_eq hs hn] at h
  unfold isSeq Config.maxSeq at *
  split at h <;> split at h <;> omega

/-! ## Consecutive records (R121) -/

theorem consecutive_tail {n : Nat} {r : Record} {rs : List Record} (h : consecutive n (r :: rs)) : consecutive n rs := by
  cases rs with
  | nil => trivial
  | cons r' rest => exact h.2

/-- A record with the next number keeps the run consecutive. -/
theorem consecutive_snoc {n : Nat} {r : Record} (hr : r.seq = n) :
    ∀ {rs : List Record}, consecutive n rs → consecutive (seqAfter n) (rs ++ [r])
  | [], _ => by simp [consecutive, hr]
  | [x], h => by simpa [consecutive, hr] using h
  | x :: y :: rest, h => by
    have := consecutive_snoc hr h.2
    exact ⟨h.1, by simpa using this⟩

/-- The first of a consecutive run lies as many steps behind the next number as the run is long. -/
theorem consecutive_head {n : Nat} (hn : isSeq n) :
    ∀ {r : Record} {rs : List Record}, (∀ x ∈ r :: rs, isSeq x.seq) → consecutive n (r :: rs) →
      rs.length + 1 < Config.maxSeq → seqSteps r.seq n = rs.length + 1
  | r, [], hs, h, hl => by
    have hr := hs r (by simp)
    have hne : r.seq ≠ n := by
      intro he
      simp only [consecutive, he] at h
      unfold isSeq seqAfter Config.maxSeq at *
      split at h <;> omega
    have := seqSteps_seqAfter_left hr hn hne
    simp only [consecutive] at h
    rw [h, seqSteps_self hn] at this
    simpa using this.symm
  | r, r' :: rest, hs, h, hl => by
    have hr := hs r (by simp)
    have ih := consecutive_head hn (fun x hx => hs x (by simp_all)) h.2 (by simp at hl ⊢; omega)
    have hne : r.seq ≠ n := by
      intro he
      have h1 := h.1
      have hr' := hs r' (by simp)
      rw [← h1, he] at ih
      have e := seqSteps_eq (isSeq_seqAfter hn) hn
      rw [e] at ih
      simp at hl
      unfold isSeq seqAfter Config.maxSeq at *
      split at ih <;> split at ih <;> omega
    have := seqSteps_seqAfter_left hr hn hne
    rw [h.1, ih] at this
    simp
    omega

/-! ## Appending (R119, R121) -/

@[simp] theorem Journal.makeRoom_nextSeq (j : Journal) : j.makeRoom.nextSeq = j.nextSeq := by
  unfold Journal.makeRoom; split <;> (try split) <;> rfl

@[simp] theorem Journal.makeRoom_clock (j : Journal) : j.makeRoom.clock = j.clock := by
  unfold Journal.makeRoom; split <;> (try split) <;> rfl

@[simp] theorem Journal.makeRoom_basis (j : Journal) : j.makeRoom.basis = j.basis := by
  unfold Journal.makeRoom; split <;> (try split) <;> rfl

@[simp] theorem Journal.makeRoom_elapsed (j : Journal) : j.makeRoom.elapsed = j.elapsed := by
  unfold Journal.makeRoom; split <;> (try split) <;> rfl

/-- A ring that is not full keeps its records and its streams. -/
theorem Journal.makeRoom_notFull {j : Journal} (h : j.ring.length < Config.ringSize) : j.makeRoom = j := by
  unfold Journal.makeRoom
  split
  · rfl
  · rw [if_neg (by omega)]

/-- A full ring drops its oldest record, and both streams are told its number. -/
theorem Journal.makeRoom_full {j : Journal} {r : Record} {rs : List Record} (hr : j.ring = r :: rs)
    (h : Config.ringSize ≤ j.ring.length) :
    j.makeRoom = { j with
      ring := rs, streamA := j.streamA.overwritten r.seq, streamB := j.streamB.overwritten r.seq } := by
  unfold Journal.makeRoom; rw [hr] at h ⊢; simp only; rw [if_pos (by simpa using h)]

theorem Journal.makeRoom_ring (j : Journal) :
    j.makeRoom.ring = if Config.ringSize ≤ j.ring.length then j.ring.tail else j.ring := by
  unfold Journal.makeRoom
  split
  · next h => simp [h]
  · next h => split <;> simp_all

@[simp] theorem Journal.append_nextSeq (b : RecordBody) (j : Journal) : (j.append b).nextSeq = seqAfter j.nextSeq := rfl

@[simp] theorem Journal.append_clock (b : RecordBody) (j : Journal) : (j.append b).clock = j.clock := by
  simp [Journal.append]

@[simp] theorem Journal.append_basis (b : RecordBody) (j : Journal) : (j.append b).basis = j.basis := by
  simp [Journal.append]

@[simp] theorem Journal.append_elapsed (b : RecordBody) (j : Journal) : (j.append b).elapsed = j.elapsed := by
  simp [Journal.append]

/-- The record taken, with its number and its stamp, is the newest of the ring (R119). -/
theorem Journal.append_ring (b : RecordBody) (j : Journal) :
    (j.append b).ring =
      (if Config.ringSize ≤ j.ring.length then j.ring.tail else j.ring) ++ [⟨j.nextSeq, j.clock, j.basis, b⟩] := by
  simp [Journal.append, Journal.makeRoom_ring]

theorem Journal.append_stream (b : RecordBody) (j : Journal) (l : LinkId) :
    (j.append b).stream l = j.makeRoom.stream l := by
  cases l <;> rfl

theorem Journal.append_ringLaw (b : RecordBody) {j : Journal} (h : j.RingLaw) : (j.append b).RingLaw where
  nonempty := by simp [Journal.append_ring]
  size := by
    have := h.size
    rw [Journal.append_ring]
    split <;> simp [Config.ringSize] at * <;> omega
  next := isSeq_seqAfter h.next
  numbers := by
    intro r hr
    rw [Journal.append_ring] at hr
    rcases List.mem_append.mp hr with hr | hr
    · split at hr
      · exact h.numbers r (List.mem_of_mem_tail hr)
      · exact h.numbers r hr
    · rw [List.mem_singleton.mp hr]; exact h.next
  inOrder := by
    rw [Journal.append_ring, Journal.append_nextSeq]
    refine consecutive_snoc (n := j.nextSeq) rfl ?_
    split
    · have := h.inOrder
      cases hj : j.ring with
      | nil => trivial
      | cons r rs => exact consecutive_tail (hj ▸ this)
    · exact h.inOrder

/-! ## Streams (R132, R139) -/

theorem Journal.RingLaw.small {j : Journal} (h : j.RingLaw) : j.ring.length + 1 < Config.maxSeq := by
  have := h.size; unfold Config.ringSize Config.maxSeq at *; omega

/-- The oldest record lies as many steps behind the next number as the ring holds records. -/
theorem Journal.RingLaw.oldest_steps {j : Journal} (h : j.RingLaw) {r : Record} {rs : List Record}
    (hr : j.ring = r :: rs) : seqSteps r.seq j.nextSeq = j.ring.length := by
  have hs := h.small
  rw [hr] at hs ⊢
  exact consecutive_head h.next (hr ▸ h.numbers) (hr ▸ h.inOrder) (by simp at hs; omega)

/-- What R132 asks of one stream record, against a next number and a ring length. -/
structure Stream.On (next len : Nat) (t : Stream) : Prop where
  unsubscribed : t.subscribed = false → t = {}
  cursor : isSeq t.cursor
  onArc : t.subscribed = true → seqSteps t.cursor next ≤ len
  credits : t.credits ≤ Config.maxCredits
  gap : ∀ g, t.gap = some g → isSeq g.first ∧ 1 ≤ g.count ∧ g.count ≤ 65535 ∧
    (g.count < 65535 → seqSteps g.first t.cursor = g.count)

theorem Journal.streamLaw_iff (j : Journal) (l : LinkId) :
    j.StreamLaw l ↔ (j.stream l).On j.nextSeq j.ring.length :=
  ⟨fun h => ⟨h.1, h.2, h.3, h.4, h.5⟩, fun h => ⟨h.1, h.2, h.3, h.4, h.5⟩⟩

/-- An unsubscribed stream record is lawful whatever the ring. -/
theorem Stream.On.empty (next len : Nat) : Stream.On next len {} where
  unsubscribed _ := rfl
  cursor := by simp [isSeq, Config.maxSeq]
  onArc h := by cases h
  credits := by simp
  gap g h := by cases h

/-- A stream on the ring before an append that drops nothing is on it after. -/
theorem Stream.On.appended {next len : Nat} {t : Stream} (hn : isSeq next) (hl : len + 1 < Config.maxSeq)
    (h : t.On next len) : t.On (seqAfter next) (len + 1) where
  unsubscribed := h.unsubscribed
  cursor := h.cursor
  onArc hs := by
    have := h.onArc hs
    rw [seqSteps_seqAfter_right h.cursor hn (by omega)]
    omega
  credits := h.credits
  gap := h.gap

/-- A stream on a full ring is on it after the oldest record is dropped and a record is appended (R139). -/
theorem Stream.On.dropped {next len d : Nat} {t : Stream} (hn : isSeq next) (hl : len + 1 < Config.maxSeq)
    (hd : isSeq d) (hd' : seqSteps d next = len) (_hpos : 0 < len) (h : t.On next len) :
    (t.overwritten d).On (seqAfter next) len := by
  unfold Stream.overwritten
  split
  · next hc =>
    simp only [Bool.and_eq_true, decide_eq_true_eq] at hc
    obtain ⟨hs, hc⟩ := hc
    refine ⟨fun h' => ?_, isSeq_seqAfter hd, fun _ => ?_, h.credits, ?_⟩
    · rw [hs] at h'; cases h'
    · rw [seqSteps_seqAfter_both hd hn, hd']
    · intro g hg
      simp only [Option.some.injEq] at hg
      subst hg
      cases hgap : t.gap with
      | none =>
        refine ⟨hd, by simp, by simp, fun _ => ?_⟩
        simp [seqSteps_seqAfter_right hd hd (by rw [seqSteps_self hd]; unfold Config.maxSeq; omega), seqSteps_self hd]
      | some g' =>
        obtain ⟨h1, h2, h3, h4⟩ := h.gap g' hgap
        simp only
        refine ⟨h1, ?_, ?_, ?_⟩
        · unfold cap16; split <;> omega
        · unfold cap16; split <;> omega
        · intro hlt
          unfold cap16 at hlt ⊢
          have hlt' : g'.count < 65535 := by split at hlt <;> omega
          have h4' := h4 hlt'
          rw [hc] at h4'
          rw [seqSteps_seqAfter_right h1 hd (by rw [h4']; unfold Config.maxSeq; omega), h4']
          split <;> [rfl; (split at hlt <;> omega)]
  · next hc =>
    refine ⟨h.unsubscribed, h.cursor, fun hs => ?_, h.credits, h.gap⟩
    have hne : t.cursor ≠ d := by
      intro he
      apply hc
      simp [hs, he]
    have hle := h.onArc hs
    have hlt : seqSteps t.cursor next ≠ len := by
      intro he
      exact hne (seqSteps_injective h.cursor hd hn (by rw [he, hd']))
    rw [seqSteps_seqAfter_right h.cursor hn (by omega)]
    omega

theorem Journal.append_streamLaw (b : RecordBody) {j : Journal} (hr : j.RingLaw) {l : LinkId} (h : j.StreamLaw l) :
    (j.append b).StreamLaw l := by
  rw [Journal.streamLaw_iff] at h ⊢
  rw [Journal.append_stream, Journal.append_nextSeq, Journal.append_ring]
  by_cases hf : j.ring.length < Config.ringSize
  · rw [Journal.makeRoom_notFull hf, if_neg (by omega)]
    simpa using h.appended hr.next hr.small
  · have hf' : Config.ringSize ≤ j.ring.length := by omega
    rw [if_pos hf']
    cases hj : j.ring with
    | nil => exact absurd hj hr.nonempty
    | cons r rs =>
      have hsteps := hr.oldest_steps hj
      rw [Journal.makeRoom_full hj hf']
      have hlen : (j.ring.tail ++ [(⟨j.nextSeq, j.clock, j.basis, b⟩ : Record)]).length = j.ring.length := by
        rw [hj]; simp
      have := h.dropped hr.next hr.small (hr.numbers r (by simp [hj])) hsteps (by simp [hj])
      rw [hj] at hlen this
      simp only [List.tail_cons] at hlen ⊢
      rw [hlen]
      cases l <;> exact this

/-- Every append keeps the laws of the Journal. -/
theorem Journal.append_law (b : RecordBody) {j : Journal} (h : j.Law) : (j.append b).Law :=
  ⟨Journal.append_ringLaw b h.ring, Journal.append_streamLaw b h.ring h.streamA,
    Journal.append_streamLaw b h.ring h.streamB⟩

theorem Journal.appendAll_law (bs : List RecordBody) {j : Journal} (h : j.Law) : (j.appendAll bs).Law := by
  induction bs generalizing j with
  | nil => exact h
  | cons b bs ih => exact ih (Journal.append_law b h)

/-- A change of a stream record that leaves it lawful keeps the laws of the Journal. -/
theorem Journal.setStream_law {j : Journal} (h : j.Law) (l : LinkId) {t : Stream} (ht : t.On j.nextSeq j.ring.length) :
    (j.setStream l t).Law := by
  obtain ⟨hr, ha, hb⟩ := h
  have ha' := (Journal.streamLaw_iff ..).mp ha
  have hb' := (Journal.streamLaw_iff ..).mp hb
  cases l
  · exact ⟨⟨hr.1, hr.2, hr.3, hr.4, hr.5⟩, (Journal.streamLaw_iff ..).mpr ht, (Journal.streamLaw_iff ..).mpr hb'⟩
  · exact ⟨⟨hr.1, hr.2, hr.3, hr.4, hr.5⟩, (Journal.streamLaw_iff ..).mpr ha', (Journal.streamLaw_iff ..).mpr ht⟩

theorem Journal.Law.stream {j : Journal} (h : j.Law) (l : LinkId) : (j.stream l).On j.nextSeq j.ring.length := by
  cases l
  · exact (Journal.streamLaw_iff ..).mp h.streamA
  · exact (Journal.streamLaw_iff ..).mp h.streamB

theorem Journal.endStream_law {j : Journal} (h : j.Law) (l : LinkId) : (j.endStream l).Law :=
  Journal.setStream_law h l (Stream.On.empty ..)

theorem Journal.zeroCredits_law {j : Journal} (h : j.Law) (l : LinkId) : (j.zeroCredits l).Law := by
  have ht := h.stream l
  refine Journal.setStream_law h l ⟨fun hs => ?_, ht.cursor, ht.onArc, by simp, ht.gap⟩
  have := ht.unsubscribed hs
  simp [this]

/-- The laws of the Journal do not depend on its clock, its basis or its elapsed count. -/
theorem Journal.Law.retimed {j : Journal} (h : j.Law) (clock elapsed : Nat) (basis : Basis) :
    ({ j with clock := clock, elapsed := elapsed, basis := basis } : Journal).Law :=
  ⟨⟨h.ring.1, h.ring.2, h.ring.3, h.ring.4, h.ring.5⟩, ⟨h.streamA.1, h.streamA.2, h.streamA.3, h.streamA.4, h.streamA.5⟩,
    ⟨h.streamB.1, h.streamB.2, h.streamB.3, h.streamB.4, h.streamB.5⟩⟩

theorem Journal.tick_law {j : Journal} (h : j.Law) : j.tick.Law := h.retimed ..

/-! ## Where a number lies (the table of R120) -/

theorem Journal.place_next {j : Journal} {n : Nat} (h : seqSteps n j.nextSeq = 0) : j.place n = .next := by
  simp only [Journal.place, h, if_true]

theorem Journal.place_held {j : Journal} {n : Nat} (h1 : 1 ≤ seqSteps n j.nextSeq)
    (h2 : seqSteps n j.nextSeq ≤ j.ring.length) : j.place n = .held (seqSteps n j.nextSeq) := by
  simp only [Journal.place]
  rw [if_neg (by omega), if_pos h2]

theorem Journal.place_lost {j : Journal} {n : Nat} (h1 : j.ring.length < seqSteps n j.nextSeq)
    (h2 : seqSteps n j.nextSeq ≤ Config.halfCircle) : j.place n = .lost (seqSteps n j.nextSeq - j.ring.length) := by
  simp only [Journal.place]
  rw [if_neg (by omega), if_neg (by omega), if_pos h2]

theorem Journal.place_newer {j : Journal} {n : Nat} (h1 : j.ring.length < seqSteps n j.nextSeq)
    (h2 : Config.halfCircle < seqSteps n j.nextSeq) : j.place n = .newer := by
  simp only [Journal.place]
  rw [if_neg (by omega), if_neg (by omega), if_neg (by omega)]

theorem cap16_eq_min (n : Nat) : cap16 n = min 65535 n := by
  unfold cap16
  split <;> omega

/-- The next sequence number lies one past the newest record (R120). -/
theorem Journal.place_nextSeq {j : Journal} (h : isSeq j.nextSeq) : j.place j.nextSeq = .next := by
  unfold Journal.place
  simp only [seqSteps_self h, if_pos]

/-- The stream a report leaves behind is lawful (R138). -/
theorem Journal.report_law {j : Journal} (h : j.Law) {l : LinkId} {r : Record} {t : Stream}
    (ho : j.offers l = true) (hr : j.report l = some (r, t)) : (j.setStream l t).Law := by
  have ht := h.stream l
  have hsub : (j.stream l).subscribed = true := by
    simp only [Journal.offers, Bool.and_eq_true] at ho
    exact ho.1.1
  apply Journal.setStream_law h
  simp only [Journal.report] at hr
  split at hr
  · next g hg =>
    simp only [Option.some.injEq, Prod.mk.injEq] at hr
    obtain ⟨-, rfl⟩ := hr
    have := ht.credits
    exact ⟨fun hs => (by simp [hsub] at hs), ht.cursor, ht.onArc, by simp; omega, by simp⟩
  · next hg =>
    have hne : (j.stream l).cursor ≠ j.nextSeq := by
      intro he
      rw [he, Journal.place_nextSeq h.ring.next] at hr
      simp [Journal.recordAt] at hr
    simp only [Option.map_eq_some_iff, Prod.mk.injEq] at hr
    obtain ⟨x, -, -, rfl⟩ := hr
    have hc := ht.credits
    have hle := ht.onArc hsub
    have hstep := seqSteps_seqAfter_left ht.cursor h.ring.next hne
    exact ⟨fun hs => (by simp [hsub] at hs), isSeq_seqAfter ht.cursor, fun _ => (by simp only; omega),
      (by simp only; omega), (by simp [hg])⟩

/-- A record that lies in the ring by R120 is there. -/
theorem Journal.recordAt_held {j : Journal} {a : Nat} (h1 : 1 ≤ a) (h2 : a ≤ j.ring.length) :
    (j.recordAt (.held a)).isSome = true := by
  have hl : j.ring.length - a < j.ring.length := by omega
  have : (j.run a 1) ≠ [] := by
    intro he
    have := congrArg List.length he
    simp [Journal.run] at this
    omega
  cases hr : j.run a 1 with
  | nil => exact absurd hr this
  | cons x xs => simp [Journal.recordAt, hr]

/-- A stream that offers has a report to give (R132, R137, R138). -/
theorem Journal.report_isSome {j : Journal} (h : j.Law) {l : LinkId} (ho : j.offers l = true) :
    (j.report l).isSome = true := by
  have ht := h.stream l
  simp only [Journal.offers, Bool.and_eq_true, Bool.or_eq_true, decide_eq_true_eq, ne_eq, decide_not,
    Bool.not_eq_eq_eq_not, Bool.not_true, decide_eq_false_iff_not] at ho
  obtain ⟨⟨hsub, -⟩, hgap⟩ := ho
  unfold Journal.report
  cases hg : (j.stream l).gap with
  | some g => simp only [hg, Option.isSome_some]
  | none =>
    have hne : (j.stream l).cursor ≠ j.nextSeq := by
      rcases hgap with hgap | hgap
      · simp [hg] at hgap
      · exact hgap
    have hle := ht.onArc hsub
    have h0 : seqSteps (j.stream l).cursor j.nextSeq ≠ 0 := fun h' =>
      hne ((seqSteps_eq_zero ht.cursor h.ring.next).mp h')
    have hplace : j.place (j.stream l).cursor = .held (seqSteps (j.stream l).cursor j.nextSeq) := by
      unfold Journal.place
      simp only [h0, if_false, hle, if_true]
    simp only [hg, hplace, Option.isSome_map]
    exact Journal.recordAt_held (by omega) hle

/-! ## What the Journal took -/

@[simp] theorem Journal.appendAll_nil (j : Journal) : j.appendAll [] = j := rfl

@[simp] theorem Journal.appendAll_cons (b : RecordBody) (bs : List RecordBody) (j : Journal) :
    j.appendAll (b :: bs) = (j.append b).appendAll bs := rfl

theorem Journal.appendAll_append (bs cs : List RecordBody) (j : Journal) :
    j.appendAll (bs ++ cs) = (j.appendAll bs).appendAll cs := by
  simp [Journal.appendAll]

@[simp] theorem Journal.appendAll_clock (bs : List RecordBody) (j : Journal) : (j.appendAll bs).clock = j.clock := by
  induction bs generalizing j with
  | nil => rfl
  | cons b bs ih => simp [ih]

@[simp] theorem Journal.appendAll_basis (bs : List RecordBody) (j : Journal) : (j.appendAll bs).basis = j.basis := by
  induction bs generalizing j with
  | nil => rfl
  | cons b bs ih => simp [ih]

@[simp] theorem Journal.appendAll_elapsed (bs : List RecordBody) (j : Journal) :
    (j.appendAll bs).elapsed = j.elapsed := by
  induction bs generalizing j with
  | nil => rfl
  | cons b bs ih => simp [ih]

end Sys2Proof.Machine
end

