-- ==== Sys2Proof/Laws/Alarm.lean ====
section
/-! SUPPORT. What the operations on alarms are made of: a property of the alarm blocks that a handful of primitive changes
keep is kept by every operation of the Sequence Engine and the Shelf Unit. -/

namespace Sys2Proof.Machine

/-- The primitive changes that every operation on alarms is made of keep `P`: a dynamic record replaced with state and
hushed as they were, a dynamic record replaced with the point's claim passed on, a record appended, a chirp, a group record
replaced with its member count as it was, and changes of the shelf table and the chatter records. -/
structure Alarm.Closed (test defer : Bool) (c : Configuration) (P : Alarm → Prop) : Prop where
  keep : ∀ (a : Alarm) (p : PointId) (d : Point), d.state = a.points[p].state → d.hushed = a.points[p].hushed →
    P a → P (a.setPoint p d)
  claim : ∀ (e : Env) (a : Alarm) (p : PointId) (d : Point), e.config = c → e.test = test → e.defer = defer →
    P a → P ((a.setPoint p d).passClaim e p)
  append : ∀ (a : Alarm) (b : RecordBody), P a → P (a.append b)
  chirp : ∀ a : Alarm, P a → P a.chirp
  groups : ∀ (a : Alarm) (g : GroupId) (r : Group), r.members = a.groups[g].members → P a →
    P { a with groups := a.groups.set g r }
  shelf : ∀ (a : Alarm) (n : List ShelfEntry), P a → P { a with shelf := n }
  chatter : ∀ (a : Alarm) (n : Vector Chatter 96), P a → P { a with chatter := n }

/-- An operation of environment `e` keeps `P`. -/
abbrev Alarm.Keeps (P : Alarm → Prop) (f : Alarm → Alarm) : Prop := ∀ a, P a → P (f a)

/-- `P` is closed under what environment `e` makes of the primitive changes. -/
abbrev Env.Keeps (e : Env) (P : Alarm → Prop) : Prop := Alarm.Closed e.test e.defer e.config P

/-- A fold of operations that keep `P` keeps it. -/
theorem foldl_keeps {α β : Type} {P : α → Prop} {f : α → β → α} (h : ∀ a b, P a → P (f a b)) (bs : List β) {a : α}
    (ha : P a) : P (bs.foldl f a) := by
  induction bs generalizing a with
  | nil => exact ha
  | cons b bs ih => exact ih (h a b ha)

variable {e : Env} {P : Alarm → Prop} {a : Alarm}

theorem Alarm.transition_keeps (h : e.Keeps P) (p : PointId) (d : Point) (cause : Cause) (ha : P a) :
    P (a.transition e p d cause) :=
  h.append _ _ (h.claim e a p d rfl rfl rfl ha)

theorem Alarm.stay_keeps (h : e.Keeps P) (p : PointId) (cause : Cause) (ha : P a) : P (a.stay e p cause) :=
  h.append _ _ ha

theorem Alarm.disarm_keeps (h : e.Keeps P) (p : PointId) (ha : P a) : P (a.disarm e p) := by
  unfold Alarm.disarm
  split
  · exact ha
  · exact h.groups _ _ _ rfl ha

theorem Alarm.enter_keeps (h : e.Keeps P) (p : PointId) (cause : Cause) (ha : P a) : P (a.enter e p cause) := by
  have hd : P (if a.findsArmed e p then a.disarm e p else a) := by
    split
    · exact Alarm.disarm_keeps h p ha
    · exact ha
  unfold Alarm.enter
  split
  · exact Alarm.transition_keeps h _ _ _ (h.chirp _ hd)
  · exact Alarm.transition_keeps h _ _ _ hd
  · exact Alarm.transition_keeps h _ _ _ hd

theorem Alarm.rearm_keeps (h : e.Keeps P) (g : GroupId) (ha : P a) : P (a.rearm e.config g) := by
  unfold Alarm.rearm
  split
  · exact ha
  · exact h.groups _ _ _ rfl ha

theorem Alarm.rearmGroupOf_keeps (h : e.Keeps P) (p : PointId) (ha : P a) : P (a.rearmGroupOf e.config p) := by
  unfold Alarm.rearmGroupOf
  split
  · exact ha
  · exact Alarm.rearm_keeps h _ ha

theorem Alarm.release_keeps (h : e.Keeps P) (ps : List PointId) (ha : P a) : P (a.release e ps) :=
  foldl_keeps (P := P) (fun _ q hb => Alarm.enter_keeps h q .release hb) ps ha

theorem Alarm.left_keeps (h : e.Keeps P) (p : PointId) (ha : P a) : P (a.left e p) :=
  Alarm.rearmGroupOf_keeps h p (Alarm.release_keeps h _ ha)

theorem Alarm.move_keeps (h : e.Keeps P) (p : PointId) (to_ : PointState) (cause : Cause) (ha : P a) :
    P (a.move e p to_ cause) := by
  have ht := Alarm.transition_keeps h p (a.moved e p to_) cause ha
  unfold Alarm.move
  split
  · exact Alarm.left_keeps h p ht
  · exact ht

theorem Alarm.newOccurrence_keeps (h : e.Keeps P) (p : PointId) (cause : Cause) (ha : P a) :
    P (a.newOccurrence e p cause) := by
  unfold Alarm.newOccurrence
  have hk := h.keep a p { a.points[p] with occurrence := occurrenceAfter a.points[p].occurrence } rfl rfl ha
  simp only
  split
  · exact Alarm.move_keeps h _ _ _ hk
  · exact Alarm.enter_keeps h _ _ hk

theorem Alarm.setChatter_keeps (h : e.Keeps P) (p : PointId) (c : Chatter) (ha : P a) : P (a.setChatter p c) :=
  h.chatter _ _ ha

theorem Alarm.shelve_keeps (h : e.Keeps P) (n : ShelfEntry) (cause : Cause) (ha : P a) : P (a.shelve e n cause) :=
  Alarm.move_keeps h _ _ _ (h.chatter _ _ (h.shelf _ _ ha))

theorem Alarm.unshelve_keeps (h : e.Keeps P) (p : PointId) (cause : Cause) (ha : P a) : P (a.unshelve e p cause) := by
  unfold Alarm.unshelve
  split
  · exact Alarm.newOccurrence_keeps h _ _ (h.shelf _ _ ha)
  · exact Alarm.move_keeps h _ _ _ (h.shelf _ _ ha)

theorem Alarm.limitReached_keeps (h : e.Keeps P) (p : PointId) (ha : P a) : P (a.limitReached e p) := by
  unfold Alarm.limitReached
  split
  · exact Alarm.shelve_keeps (e := { e with origin := .part }) h _ _ ha
  · exact h.append _ _ (h.chatter _ _ ha)

theorem Alarm.countQA_keeps (h : e.Keeps P) (p : PointId) (ha : P a) : P (a.countQA e p) := by
  unfold Alarm.countQA
  simp only
  split_ifs
  · exact ha
  · exact Alarm.limitReached_keeps h p ha
  · exact h.chatter _ _ ha
  · exact Alarm.limitReached_keeps h p ha
  · exact h.chatter _ _ ha

theorem Alarm.qa_keeps (h : e.Keeps P) (p : PointId) (ha : P a) : P (a.qa e p) := by
  unfold Alarm.qa
  split <;> first | exact Alarm.newOccurrence_keeps h _ _ ha | exact Alarm.stay_keeps h _ _ ha

theorem Alarm.qn_keeps (h : e.Keeps P) (p : PointId) (ha : P a) : P (a.qn e p) := by
  unfold Alarm.qn
  split <;> first | exact Alarm.move_keeps h _ _ _ ha | exact Alarm.stay_keeps h _ _ ha

theorem Alarm.setCondition_keeps (h : e.Keeps P) (p : PointId) (v : Bool) (ha : P a) : P (a.setCondition p v) :=
  h.keep _ _ _ rfl rfl ha

theorem Alarm.deliver_keeps (h : e.Keeps P) (p : PointId) (v : Bool) (ha : P a) : P (a.deliver e p v) := by
  have hs := Alarm.setCondition_keeps h p v ha
  unfold Alarm.deliver
  split
  · exact hs
  · exact Alarm.qa_keeps h _ hs
  · exact Alarm.countQA_keeps h _ (Alarm.qa_keeps h _ hs)
  · exact Alarm.qn_keeps h _ hs

theorem Alarm.ack_keeps (h : e.Keeps P) (p : PointId) (ha : P a) : P (a.ack e p) := by
  unfold Alarm.ack
  split <;> first | exact Alarm.move_keeps h _ _ _ ha | exact ha

theorem Alarm.ackAll_keeps (h : e.Keeps P) (ha : P a) : P (a.ackAll e).1 := by
  refine foldl_keeps (P := fun x : Alarm × Nat => P x.1) ?_ _ ha
  intro x p hx
  unfold Alarm.ackSweep
  split
  · exact Alarm.ack_keeps h p hx
  · exact hx

theorem Alarm.rst_keeps (h : e.Keeps P) (p : PointId) (ha : P a) : P (a.rst e p) := Alarm.move_keeps h _ _ _ ha

theorem Alarm.resetAll_keeps (h : e.Keeps P) (ha : P a) : P (a.resetAll e).1 := by
  refine foldl_keeps (P := fun x : Alarm × Nat => P x.1) ?_ _ ha
  intro x p hx
  split
  · exact Alarm.rst_keeps h p hx
  · exact hx

theorem Alarm.hush_keeps (h : e.Keeps P) (p : PointId) (ha : P a) : P (a.hush e p) := h.claim _ _ _ _ rfl rfl rfl ha

theorem Alarm.silence_keeps (h : e.Keeps P) (ha : P a) : P (a.silence e).1 :=
  h.append _ _ (foldl_keeps (P := P) (fun _ q hb => Alarm.hush_keeps h q hb) _ ha)

theorem Alarm.remind_keeps (h : e.Keeps P) (p : PointId) (ha : P a) : P (a.remind e p) :=
  Alarm.transition_keeps h _ _ _ ha

theorem Alarm.passes_keeps (h : e.Keeps P) (cause : Cause) (ps : List PointId) (ha : P a) : P (a.passes e cause ps) :=
  foldl_keeps (P := P) (fun _ q hb => Alarm.newOccurrence_keeps h q cause hb) _ ha

/-! ## The operations of a commit apply (R27, R57 to R60, R76) -/

theorem Alarm.applyDisable_keeps (h : e.Keeps P) (p : PointId) (ha : P a) : P (a.applyDisable e p) :=
  Alarm.transition_keeps h _ _ _ (h.chatter _ _ (h.shelf _ _ ha))

theorem Alarm.applyReset_keeps (h : e.Keeps P) (p : PointId) (ha : P a) : P (a.applyReset e p) :=
  Alarm.transition_keeps h _ _ _ (h.chatter _ _ ha)

theorem Alarm.loseMark_keeps (h : e.Keeps P) (p : PointId) (ha : P a) : P (a.loseMark p) := h.keep _ _ _ rfl rfl ha

theorem Alarm.applyReminder_keeps (h : e.Keeps P) (old : Configuration) (p : PointId) (ha : P a) :
    P (a.applyReminder e old p) := by
  simp only [Alarm.applyReminder]
  split
  · exact ha
  · split
    · exact h.keep _ _ _ rfl rfl ha
    · split
      · exact h.keep _ _ _ rfl rfl ha
      · exact ha

theorem Alarm.applyChatter_keeps (h : e.Keeps P) (old new : Configuration) (p : PointId) (ha : P a) :
    P (a.applyChatter old new p) := by
  unfold Alarm.applyChatter
  split
  · exact ha
  · exact h.chatter _ _ ha

/-- What follows the moving of the kept points' claims in a commit apply, where `P` is kept by the recomputation of the
group records, which counts their members afresh (R58). -/
theorem Alarm.apply_keeps (h : e.Keeps P) (old : Configuration)
    (hg : ∀ (a : Alarm) (g : GroupId), P a → P (a.recomputeGroup old e.config g))
    (ha : P (allPoints.foldl (fun a p => (a.passClaim e p).applyChatter old e.config p) a)) : P (a.apply e old) := by
  unfold Alarm.apply
  refine foldl_keeps (P := P) (fun _ p hb => Alarm.applyReminder_keeps h old p hb) _ ?_
  refine Alarm.passes_keeps h _ _ ?_
  refine Alarm.release_keeps h _ ?_
  refine foldl_keeps (P := P) (fun _ g hb => hg _ g hb) _ ?_
  refine foldl_keeps (P := P) (fun _ p hb => Alarm.loseMark_keeps h p hb) _ ?_
  refine foldl_keeps (P := P) (fun _ p hb => Alarm.applyReset_keeps h p hb) _ ?_
  exact foldl_keeps (P := P) (fun _ p hb => Alarm.applyDisable_keeps h p hb) _ ha

/-! ## The Journal only grows by appends (R119) -/

/-- Between two states of the alarm blocks the Journal took some records, and nothing else of it changed. -/
def Alarm.Grew (a b : Alarm) : Prop := ∃ bs, b.journal = a.journal.appendAll bs

theorem Alarm.Grew.refl (a : Alarm) : Alarm.Grew a a := ⟨[], rfl⟩

theorem Alarm.Grew.trans {a b c : Alarm} : Alarm.Grew a b → Alarm.Grew b c → Alarm.Grew a c := by
  rintro ⟨bs, hb⟩ ⟨cs, hc⟩
  exact ⟨bs ++ cs, by rw [hc, hb, Journal.appendAll_append]⟩

theorem Alarm.Grew.closed (a : Alarm) (test defer : Bool) (c : Configuration) :
    Alarm.Closed test defer c (Alarm.Grew a) where
  keep _ _ _ _ _ := id
  claim _ _ _ _ _ _ _ := id
  append _ b h := h.trans ⟨[b], rfl⟩
  chirp _ := id
  groups _ _ _ _ := id
  shelf _ _ := id
  chatter _ _ := id

/-- The Journal's law is kept by every primitive change. -/
theorem Journal.Law.closed (test defer : Bool) (c : Configuration) :
    Alarm.Closed test defer c fun a => a.journal.Law where
  keep _ _ _ _ _ := id
  claim _ _ _ _ _ _ _ := id
  append _ b := Journal.append_law b
  chirp _ := id
  groups _ _ _ _ := id
  shelf _ _ := id
  chatter _ _ := id

/-! ## The groups' member counts change with the configuration alone (R46) -/

/-- The member counts are those of `n`. -/
def Alarm.Members (n : GroupId → Nat) (a : Alarm) : Prop := ∀ g : GroupId, a.groups[g].members = n g

theorem Alarm.Members.closed (n : GroupId → Nat) (test defer : Bool) (c : Configuration) :
    Alarm.Closed test defer c (Alarm.Members n) where
  keep _ _ _ _ _ := id
  claim _ _ _ _ _ _ _ := id
  append _ _ := id
  chirp _ := id
  groups a g r hr h k := by
    have hs := getElem_set_fin a.groups g k r
    change (a.groups.set g r)[k].members = n k
    rw [hs]
    split
    · next hk => subst hk; rw [hr]; exact h k
    · exact h k
  shelf _ _ := id
  chatter _ _ := id

/-! ## The lamp image follows the patterns (R19, R110) -/

theorem Alarm.setPoint_lampLaw (p : PointId) (d : Point) (h : a.LampLaw) : (a.setPoint p d).LampLaw := by
  intro q
  rw [Alarm.setPoint_lamps, Alarm.setPoint_points]
  split
  · rfl
  · exact h q

theorem Alarm.LampLaw.closed (test defer : Bool) (c : Configuration) : Alarm.Closed test defer c Alarm.LampLaw where
  keep _ p d _ _ h := Alarm.setPoint_lampLaw p d h
  claim _ _ p d _ _ _ h := Alarm.setPoint_lampLaw p d h
  append _ _ h := h
  chirp _ h := h
  groups _ _ _ _ h := h
  shelf _ _ h := h
  chatter _ _ h := h

end Sys2Proof.Machine
end

