-- ==== Sys2Proof/Laws/Links.lean ====
section
/-! SUPPORT. The shared operations of the links: what a transmitter's choice can change, and what executing a frame
answers in each of its cases. -/

namespace Sys2Proof.Machine

/-! ## The transmitter: only the frame in it and the stream it takes from change (R138, R176) -/

@[simp] theorem Part.transmit_quiet (l : LinkId) (s : Part) : (s.transmit l).quiet = s.quiet := by
  unfold Part.transmit
  simp only
  split
  · rfl
  · split
    · cases l <;> rfl
    · split
      · split
        · cases l <;> rfl
        · rfl
      · rfl

@[simp] theorem Part.serve_quiet (s : Part) : s.serve.quiet = s.quiet := by
  unfold Part.serve
  simp

@[simp] theorem Part.quiet_link (s : Part) (l : LinkId) : s.quiet.link l = (s.link l).quiet := by cases l <;> rfl

theorem Part.quiet_link_eq {s t : Part} (h : s.quiet = t.quiet) (l : LinkId) : (s.link l).quiet = (t.link l).quiet := by
  rw [← Part.quiet_link, ← Part.quiet_link, h]

@[simp] theorem Part.serve_link_quiet (s : Part) (l : LinkId) : (s.serve.link l).quiet = (s.link l).quiet :=
  Part.quiet_link_eq s.serve_quiet l

@[simp] theorem Part.serve_active (s : Part) : s.serve.active = s.active :=
  (congrArg (fun t : Part => t.active) s.serve_quiet :)

@[simp] theorem Part.serve_manager (s : Part) : s.serve.manager = s.manager :=
  (congrArg (fun t : Part => t.manager) s.serve_quiet :)

@[simp] theorem Part.serve_lines (s : Part) : s.serve.lines = s.lines :=
  (congrArg (fun t : Part => t.lines) s.serve_quiet :)

@[simp] theorem Part.serve_conditions (s : Part) : s.serve.conditions = s.conditions :=
  (congrArg (fun t : Part => t.conditions) s.serve_quiet :)

@[simp] theorem Part.serve_panel (s : Part) : s.serve.panel = s.panel :=
  (congrArg (fun t : Part => t.panel) s.serve_quiet :)

@[simp] theorem Part.serve_baud (s : Part) : s.serve.baud = s.baud :=
  (congrArg (fun t : Part => t.baud) s.serve_quiet :)

@[simp] theorem Part.serve_free (s : Part) : s.serve.free = s.free :=
  (congrArg (fun t : Part => t.free) s.serve_quiet :)

@[simp] theorem Part.serve_inputs (s : Part) : s.serve.inputs = s.inputs :=
  (congrArg (fun t : Part => t.inputs) s.serve_quiet :)

@[simp] theorem Part.serve_scanTimer (s : Part) : s.serve.scanTimer = s.scanTimer :=
  (congrArg (fun t : Part => t.scanTimer) s.serve_quiet :)

@[simp] theorem Part.serve_keyLines (s : Part) : s.serve.keyLines = s.keyLines :=
  (congrArg (fun t : Part => t.keyLines) s.serve_quiet :)

@[simp] theorem Part.serve_points (s : Part) : s.serve.alarm.points = s.alarm.points :=
  (congrArg (fun t : Part => t.alarm.points) s.serve_quiet :)

@[simp] theorem Part.serve_groups (s : Part) : s.serve.alarm.groups = s.alarm.groups :=
  (congrArg (fun t : Part => t.alarm.groups) s.serve_quiet :)

@[simp] theorem Part.serve_shelf (s : Part) : s.serve.alarm.shelf = s.alarm.shelf :=
  (congrArg (fun t : Part => t.alarm.shelf) s.serve_quiet :)

@[simp] theorem Part.serve_chatter (s : Part) : s.serve.alarm.chatter = s.alarm.chatter :=
  (congrArg (fun t : Part => t.alarm.chatter) s.serve_quiet :)

@[simp] theorem Part.serve_lamps (s : Part) : s.serve.alarm.lamps = s.alarm.lamps :=
  (congrArg (fun t : Part => t.alarm.lamps) s.serve_quiet :)

@[simp] theorem Part.serve_sounder (s : Part) : s.serve.alarm.sounder = s.alarm.sounder :=
  (congrArg (fun t : Part => t.alarm.sounder) s.serve_quiet :)

@[simp] theorem Part.serve_ring (s : Part) : s.serve.alarm.journal.ring = s.alarm.journal.ring :=
  (congrArg (fun t : Part => t.alarm.journal.ring) s.serve_quiet :)

@[simp] theorem Part.serve_nextSeq (s : Part) : s.serve.alarm.journal.nextSeq = s.alarm.journal.nextSeq :=
  (congrArg (fun t : Part => t.alarm.journal.nextSeq) s.serve_quiet :)

@[simp] theorem Part.serve_clock (s : Part) : s.serve.alarm.journal.clock = s.alarm.journal.clock :=
  (congrArg (fun t : Part => t.alarm.journal.clock) s.serve_quiet :)

@[simp] theorem Part.serve_basis (s : Part) : s.serve.alarm.journal.basis = s.alarm.journal.basis :=
  (congrArg (fun t : Part => t.alarm.journal.basis) s.serve_quiet :)

@[simp] theorem Part.serve_elapsed (s : Part) : s.serve.alarm.journal.elapsed = s.alarm.journal.elapsed :=
  (congrArg (fun t : Part => t.alarm.journal.elapsed) s.serve_quiet :)

@[simp] theorem Part.serve_waiting (s : Part) (l : LinkId) : (s.serve.link l).waiting = (s.link l).waiting :=
  (congrArg (fun t : Link => t.waiting) (s.serve_link_quiet l) :)

@[simp] theorem Part.serve_executing (s : Part) (l : LinkId) : (s.serve.link l).executing = (s.link l).executing :=
  (congrArg (fun t : Link => t.executing) (s.serve_link_quiet l) :)

@[simp] theorem Part.serve_replies (s : Part) (l : LinkId) : (s.serve.link l).replies = (s.link l).replies :=
  (congrArg (fun t : Link => t.replies) (s.serve_link_quiet l) :)

@[simp] theorem Part.serve_cache (s : Part) (l : LinkId) : (s.serve.link l).cache = (s.link l).cache :=
  (congrArg (fun t : Link => t.cache) (s.serve_link_quiet l) :)

@[simp] theorem Part.serve_state (s : Part) (l : LinkId) : (s.serve.link l).state = (s.link l).state :=
  (congrArg (fun t : Link => t.state) (s.serve_link_quiet l) :)

@[simp] theorem Part.serve_framer (s : Part) (l : LinkId) : (s.serve.link l).framer = (s.link l).framer :=
  (congrArg (fun t : Link => t.framer) (s.serve_link_quiet l) :)

@[simp] theorem Part.serve_authority (s : Part) (l : LinkId) : (s.serve.link l).authority = (s.link l).authority :=
  (congrArg (fun t : Link => t.authority) (s.serve_link_quiet l) :)

@[simp] theorem Part.serve_heartbeat (s : Part) (l : LinkId) : (s.serve.link l).heartbeat = (s.link l).heartbeat :=
  (congrArg (fun t : Link => t.heartbeat) (s.serve_link_quiet l) :)

/-! ## The execution of a frame begins: only its own link changes (R170, R171) -/

@[simp] theorem Part.begin_active (s : Part) (l : LinkId) (f : Frame) : (s.begin l f).active = s.active := by
  simp [Part.begin]

@[simp] theorem Part.begin_manager (s : Part) (l : LinkId) (f : Frame) : (s.begin l f).manager = s.manager := by
  simp [Part.begin]

@[simp] theorem Part.begin_lines (s : Part) (l : LinkId) (f : Frame) : (s.begin l f).lines = s.lines := by
  simp [Part.begin]

@[simp] theorem Part.begin_conditions (s : Part) (l : LinkId) (f : Frame) : (s.begin l f).conditions = s.conditions := by
  simp [Part.begin]

@[simp] theorem Part.begin_alarm (s : Part) (l : LinkId) (f : Frame) : (s.begin l f).alarm = s.alarm := by
  simp [Part.begin]

@[simp] theorem Part.begin_panel (s : Part) (l : LinkId) (f : Frame) : (s.begin l f).panel = s.panel := by
  simp [Part.begin]

@[simp] theorem Part.begin_baud (s : Part) (l : LinkId) (f : Frame) : (s.begin l f).baud = s.baud := by
  simp [Part.begin]

@[simp] theorem Part.begin_free (s : Part) (l : LinkId) (f : Frame) : (s.begin l f).free = s.free := by
  simp [Part.begin]

@[simp] theorem Part.begin_inputs (s : Part) (l : LinkId) (f : Frame) : (s.begin l f).inputs = s.inputs := by
  simp [Part.begin]

@[simp] theorem Part.begin_scanTimer (s : Part) (l : LinkId) (f : Frame) : (s.begin l f).scanTimer = s.scanTimer := by
  simp [Part.begin]

@[simp] theorem Part.begin_keyLines (s : Part) (l : LinkId) (f : Frame) : (s.begin l f).keyLines = s.keyLines := by
  simp [Part.begin]

@[simp] theorem Part.begin_env (s : Part) (l : LinkId) (f : Frame) (o : Origin) : (s.begin l f).env o = s.env o := by
  simp [Part.env]

@[simp] theorem Part.begin_link (s : Part) (l : LinkId) (f : Frame) :
    (s.begin l f).link l = { s.link l with waiting := (s.link l).waiting.tail, executing := some f } := by
  simp [Part.begin]

theorem Part.begin_link_ne (s : Part) {l m : LinkId} (f : Frame) (h : m ≠ l) : (s.begin l f).link m = s.link m := by
  simp [Part.begin, Part.setLink_link_ite, h]

/-! ## Executing the oldest waiting frame (R172) -/

variable {k : RequestKind} {mine : List Byte → Bool} {l : LinkId} {f : Frame} {s : Part}

@[simp] theorem Link.cachedReply_begun (f g : Frame) (k : Link) (w : List Frame) :
    Link.cachedReply f { k with waiting := w, executing := some g } = Link.cachedReply f k := rfl

/-- A link with no frame that this row may execute is left as it is (log 2). -/
theorem Part.execute_skip (body : LinkId → List Byte → Part → Part × Option Answer)
    (h : ∀ f, (s.link l).nextFrame = some f → ¬(RequestKind.ofCode f.kind = some k ∧ mine f.body = true)) :
    s.execute l k mine body = s := by
  unfold Part.execute
  split
  · rfl
  · next f hf => rw [if_neg (h f hf)]

/-- A frame that passes the common checks goes to its block (R172). -/
theorem Part.execute_ready (body : LinkId → List Byte → Part → Part × Option Answer) (h : s.Ready l k f)
    (hm : mine f.body = true) :
    s.execute l k mine body =
      (match body l f.body (s.begin l f) with
        | (s2, some ans) => s2.conclude l f ans
        | (s2, none) => s2.serve) := by
  unfold Part.execute
  rw [h.next]
  simp only [h.kind, hm, and_self, if_true]
  rw [show ((s.begin l f).link l).cachedReply f = none by rw [Part.begin_link]; exact h.fresh]
  simp only [h.length, Bool.true_eq_false, if_false]
  exact if_neg (by rw [Part.begin_link, Bool.not_eq_false]; exact h.authority)

/-- A request that passes the common checks is carried out by its block, and answered (R172). -/
theorem Part.request_ready (body : LinkId → List Byte → Part → Part × Answer) (h : s.Ready l k f) :
    s.request l k body = (body l f.body (s.begin l f)).1.conclude l f (body l f.body (s.begin l f)).2 := by
  unfold Part.request
  rw [Part.execute_ready _ h rfl]

/-- A frame whose reply is cached is answered from the cache (R175). -/
theorem Part.execute_cached (body : LinkId → List Byte → Part → Part × Option Answer) {r : Reply}
    (hn : (s.link l).nextFrame = some f) (hk : RequestKind.ofCode f.kind = some k) (hm : mine f.body = true)
    (hc : (s.link l).cachedReply f = some r) : s.execute l k mine body = (s.begin l f).repeatReply l r := by
  unfold Part.execute
  rw [hn]
  simp only [hk, hm, and_self, if_true]
  rw [show ((s.begin l f).link l).cachedReply f = some r by rw [Part.begin_link]; exact hc]

/-- A body of the wrong length is refused with LENGTH (R172 step 2). -/
theorem Part.execute_length (body : LinkId → List Byte → Part → Part × Option Answer)
    (hn : (s.link l).nextFrame = some f) (hk : RequestKind.ofCode f.kind = some k) (hm : mine f.body = true)
    (hc : (s.link l).cachedReply f = none) (hl : k.lengthOk f.body = false) :
    s.execute l k mine body = s.answered l f (refuse .length) := by
  unfold Part.execute
  rw [hn]
  simp only [hk, hm, and_self, if_true]
  rw [show ((s.begin l f).link l).cachedReply f = none by rw [Part.begin_link]; exact hc]
  simp only [hl, if_true]
  rfl

/-- A kind outside the link's authority is refused with DENIED (R172 step 3). -/
theorem Part.execute_denied (body : LinkId → List Byte → Part → Part × Option Answer)
    (hn : (s.link l).nextFrame = some f) (hk : RequestKind.ofCode f.kind = some k) (hm : mine f.body = true)
    (hc : (s.link l).cachedReply f = none) (hl : k.lengthOk f.body = true)
    (ha : (s.link l).authority.allows k.needs = false) :
    s.execute l k mine body = s.answered l f (refuse .denied) := by
  unfold Part.execute
  rw [hn]
  simp only [hk, hm, and_self, if_true]
  rw [show ((s.begin l f).link l).cachedReply f = none by rw [Part.begin_link]; exact hc]
  simp only [hl, Bool.true_eq_false, if_false]
  rw [if_pos (by rw [Part.begin_link]; exact ha)]
  rfl

/-- What a conclusion leaves in its link's queues and cache, and that nothing else changes but what the transmitters take
(R171, R175, R176). -/
theorem Part.conclude_quiet (s : Part) (l : LinkId) (f : Frame) (ans : Answer) :
    (s.conclude l f ans).quiet = (s.setLink l ((s.link l).finish f ans)).quiet := by
  simp [Part.conclude]

/-- A request that changes nothing else leaves its reply and its cache entry, and its frame off the queue. -/
theorem Part.answered_replied (s : Part) (l : LinkId) (f : Frame) (ans : Answer) :
    s.Replied (s.answered l f ans) l f ans := by
  constructor <;> simp [Part.answered, Part.conclude, Link.finish]

/-! ## What a request row answers, once its frame has passed the common checks -/

/-- The row completes with whatever its block answers. -/
theorem State.run_ready {s : State} {l : LinkId} {k : RequestKind} {f : Frame} (h : s.Ready l k f)
    (body : LinkId → List Byte → Part → Part × Answer) {m : Part} {ans : Answer}
    (hb : body l f.body (s.begin l f) = (m, ans)) :
    s.run (·.request l k body) = s.becomes (m.conclude l f ans) := by
  unfold State.run State.becomes
  simp only [Part.request_ready body h, hb]

/-- The row only answers, where its block changes nothing. -/
theorem State.run_answered {s : State} {l : LinkId} {k : RequestKind} {f : Frame} (h : s.Ready l k f)
    (body : LinkId → List Byte → Part → Part × Answer) {ans : Answer}
    (hb : body l f.body (s.begin l f) = (s.begin l f, ans)) :
    s.run (·.request l k body) = s.becomes (s.answered l f ans) := State.run_ready h body hb

/-! ## The checks of the fields -/

theorem within_eq_false {lo hi v : Nat} : within lo hi v = false ↔ v < lo ∨ hi < v := by
  simp only [within, Bool.and_eq_false_iff, decide_eq_false_iff_not]
  omega

theorem point?_val (p : PointId) : point? p.val = some p := by simp [point?]

theorem point?_above {n : Nat} (h : 95 < n) : point? n = none := dif_neg (by omega)

theorem line?_val (n : LineId) : line? n.val = some n := by simp [line?]

theorem relay?_val (r : RelayId) : relay? r.val = some r := by simp [relay?]

theorem link?_code (l : LinkId) : link? (linkCode l) = some l := by cases l <;> rfl

/-- A record with every field in its table has no first field out of it. -/
theorem firstBad_none (n : Nat) (fs : List (Nat × Bool)) (h : ∀ x ∈ fs, x.2 = true) : firstBad n fs = none := by
  induction fs generalizing n with
  | nil => rfl
  | cons x fs ih =>
    have hx : x.2 = true := h x (by simp)
    simp only [firstBad, hx, if_true]
    exact ih _ fun y hy => h y (by simp [hy])

/-! ## A check that runs when a Restart comes (R157, R160) -/

/-- A running check is abandoned as `Part.StopsCheck` says. -/
theorem Part.StopsCheck.abandonCheck {l : LinkId} {s t : Part} (h : Part.StopsCheck l s t) : s.abandonCheck = t := by
  rcases h with ⟨h1, rfl⟩ | ⟨h, g, d, -, h1, h2, h3, rfl⟩
  · unfold Part.abandonCheck; rw [h1]
  · unfold Part.abandonCheck
    rw [h1, h2]
    cases h <;> simp_all [Part.setLink, Link.finish, refuse, Part.link]

end Sys2Proof.Machine
end

