-- ==== Sys2Proof/Laws/Sounder.lean ====
section
/-! SUPPORT. The Sounder Controller's operations: what a claim change and an evaluation leave behind, and the laws of the
claim lists and the channels. -/

namespace Sys2Proof.Machine

/-! ## Claim lists (R83) -/

theorem claimsPoint_iff (p : PointId) (cs : List Claim) : claimsPoint p cs = true ↔ p ∈ cs.map Claim.point := by
  simp [claimsPoint]

theorem claimsPoint_append (p : PointId) (cs ds : List Claim) :
    claimsPoint p (cs ++ ds) = (claimsPoint p cs || claimsPoint p ds) := by
  simp [claimsPoint]

theorem claimsPoint_withoutPoint (p q : PointId) (cs : List Claim) :
    claimsPoint q (withoutPoint p cs) = (!decide (q = p) && claimsPoint q cs) := by
  rw [Bool.eq_iff_iff, claimsPoint_iff]
  simp only [withoutPoint, List.mem_map, List.mem_filter, decide_eq_true_eq, Bool.and_eq_true,
    Bool.not_eq_true', decide_eq_false_iff_not, claimsPoint_iff]
  constructor
  · rintro ⟨c, ⟨h1, h2⟩, rfl⟩
    exact ⟨h2, c, h1, rfl⟩
  · rintro ⟨h1, c, h2, rfl⟩
    exact ⟨c, ⟨h2, h1⟩, rfl⟩

theorem Sounder.claimLevel_endClaim (s : Sounder) (p q : PointId) :
    (s.endClaim p).claimLevel q = if q = p then none else s.claimLevel q := by
  by_cases h : q = p <;> simp [Sounder.claimLevel, Sounder.endClaim, claimsPoint_withoutPoint, h]

theorem Sounder.claimLevel_beginClaim (s : Sounder) (c : Claim) (l : Level) (q : PointId)
    (h : s.claimLevel c.point = none) :
    (s.beginClaim c l).claimLevel q = if q = c.point then some l else s.claimLevel q := by
  have hn : claimsPoint c.point s.claims3 = false ∧ claimsPoint c.point s.claims2 = false ∧
      claimsPoint c.point s.claims1 = false := by
    unfold Sounder.claimLevel at h
    split at h
    · simp at h
    · split at h
      · simp at h
      · split at h
        · simp at h
        · simp_all
  obtain ⟨h3, h2, h1⟩ := hn
  have hs : claimsPoint q [c] = decide (q = c.point) := by simp [claimsPoint, eq_comm]
  by_cases hq : q = c.point
  · subst hq
    cases l <;> simp [Sounder.claimLevel, Sounder.beginClaim, claimsPoint_append, hs, h1, h2, h3]
  · cases l <;> simp only [Sounder.claimLevel, Sounder.beginClaim, claimsPoint_append, hs, hq, decide_false,
      Bool.or_false, if_false] <;> congr

/-- The points of the three claim lists, highest level first. -/
def Sounder.claimants (s : Sounder) : List PointId := (s.claims3 ++ s.claims2 ++ s.claims1).map Claim.point

theorem Sounder.claimLevel_eq_none (s : Sounder) (p : PointId) : s.claimLevel p = none ↔ p ∉ s.claimants := by
  unfold Sounder.claimLevel Sounder.claimants
  simp only [List.map_append, List.mem_append, ← claimsPoint_iff]
  split
  · simp [*]
  · split
    · simp [*]
    · split <;> simp [*]

theorem Sounder.claimants_endClaim (s : Sounder) (p : PointId) :
    (s.endClaim p).claimants = s.claimants.filter fun q => q ≠ p := by
  simp [Sounder.claimants, Sounder.endClaim, withoutPoint, List.filter_map, Function.comp_def]

theorem Sounder.claimants_beginClaim (s : Sounder) (c : Claim) (l : Level) :
    (s.beginClaim c l).claimants.Perm (c.point :: s.claimants) := by
  cases l
  · simp only [Sounder.claimants, Sounder.beginClaim, List.map_append, List.map_cons, List.map_nil]
    rw [← List.append_assoc]
    exact List.perm_append_comm.trans (by simp)
  · simp only [Sounder.claimants, Sounder.beginClaim, List.map_append, List.map_cons, List.map_nil]
    rw [← List.append_assoc, List.append_assoc _ [c.point]]
    exact List.perm_middle.trans (by simp)
  · simp only [Sounder.claimants, Sounder.beginClaim, List.map_append, List.map_cons, List.map_nil]
    rw [List.append_assoc, List.append_assoc]
    exact List.perm_middle.trans (by simp)

/-! ## Evaluations touch the channels alone (R84) -/

@[simp] theorem Sounder.assign_claims1 (now : Nat) (r : LevelSet) (s : Sounder) : (s.assign now r).claims1 = s.claims1 := rfl

@[simp] theorem Sounder.assign_claims2 (now : Nat) (r : LevelSet) (s : Sounder) : (s.assign now r).claims2 = s.claims2 := rfl

@[simp] theorem Sounder.assign_claims3 (now : Nat) (r : LevelSet) (s : Sounder) : (s.assign now r).claims3 = s.claims3 := rfl

@[simp] theorem Sounder.assign_claimLevel (now : Nat) (r : LevelSet) (s : Sounder) (p : PointId) :
    (s.assign now r).claimLevel p = s.claimLevel p := rfl

@[simp] theorem Sounder.assign_claimants (now : Nat) (r : LevelSet) (s : Sounder) :
    (s.assign now r).claimants = s.claimants := rfl

/-- A claim change as the lists take it: the point's claim stands at `level`, or at none. -/
def Sounder.claimAt (s : Sounder) (p : PointId) (level : Option Level) (stamp : Nat) : Sounder :=
  match level with
  | none => s.endClaim p
  | some l => (s.endClaim p).beginClaim ⟨p, stamp⟩ l

theorem Sounder.claimAt_claimLevel (s : Sounder) (p q : PointId) (level : Option Level) (stamp : Nat) :
    (s.claimAt p level stamp).claimLevel q = if q = p then level else s.claimLevel q := by
  cases level with
  | none => simp [Sounder.claimAt, Sounder.claimLevel_endClaim]
  | some l =>
    have h : (s.endClaim p).claimLevel p = none := by simp [Sounder.claimLevel_endClaim]
    simp only [Sounder.claimAt]
    rw [Sounder.claimLevel_beginClaim _ ⟨p, stamp⟩ _ _ h, Sounder.claimLevel_endClaim]
    split <;> rfl

theorem Sounder.claimAt_nodup {s : Sounder} (p : PointId) (level : Option Level) (stamp : Nat)
    (h : s.claimants.Nodup) : (s.claimAt p level stamp).claimants.Nodup := by
  have he : (s.endClaim p).claimants.Nodup := by
    rw [Sounder.claimants_endClaim]
    exact h.filter _
  cases level with
  | none => exact he
  | some l =>
    refine (Sounder.claimants_beginClaim _ _ _).nodup_iff.mpr (List.nodup_cons.mpr ⟨?_, he⟩)
    rw [Sounder.claimants_endClaim]
    simp

/-- A claim change leaves the lists as they were where it changes nothing, changes them otherwise, and evaluates the
assignment exactly when W has changed, test is inactive and the evaluation does not wait (R83, R96, R100). -/
theorem Sounder.passClaim_cases (test defer : Bool) (now : Nat) (p : PointId) (level : Option Level) (stamp : Nat)
    (s : Sounder) :
    (s.claimLevel p = level ∧ s.passClaim test defer now p level stamp = s) ∨
    (((s.claimAt p level stamp).w = s.w ∨ defer = true ∨ test = true) ∧
      s.passClaim test defer now p level stamp = s.claimAt p level stamp) ∨
    (defer = false ∧ test = false ∧
      s.passClaim test defer now p level stamp = (s.claimAt p level stamp).assign now {}) := by
  by_cases h : s.claimLevel p = level
  · left
    exact ⟨h, by simp [Sounder.passClaim, h]⟩
  · right
    have hp : s.passClaim test defer now p level stamp =
        if (s.claimAt p level stamp).w = s.w ∨ defer = true then s.claimAt p level stamp
        else (s.claimAt p level stamp).evaluate test now {} := by
      unfold Sounder.passClaim
      rw [if_neg h]
      rfl
    rw [hp]
    split
    · next hc => left; exact ⟨by tauto, rfl⟩
    · next hc =>
      unfold Sounder.evaluate
      split
      · next ht => left; exact ⟨by tauto, rfl⟩
      · next ht => right; exact ⟨by simpa using fun h => hc (.inr h), by simpa using ht, rfl⟩

theorem Sounder.passClaim_claimLevel (test defer : Bool) (now : Nat) (p q : PointId) (level : Option Level) (stamp : Nat)
    (s : Sounder) :
    (s.passClaim test defer now p level stamp).claimLevel q = if q = p then level else s.claimLevel q := by
  rcases Sounder.passClaim_cases test defer now p level stamp s with ⟨h, hs⟩ | ⟨-, hs⟩ | ⟨-, -, hs⟩
  · rw [hs]; split <;> simp_all
  · rw [hs, Sounder.claimAt_claimLevel]
  · rw [hs, Sounder.assign_claimLevel, Sounder.claimAt_claimLevel]

theorem Sounder.passClaim_nodup (test defer : Bool) (now : Nat) (p : PointId) (level : Option Level) (stamp : Nat)
    {s : Sounder} (h : s.claimants.Nodup) : (s.passClaim test defer now p level stamp).claimants.Nodup := by
  rcases Sounder.passClaim_cases test defer now p level stamp s with ⟨-, hs⟩ | ⟨-, hs⟩ | ⟨-, -, hs⟩
  · rw [hs]; exact h
  · rw [hs]; exact Sounder.claimAt_nodup p level stamp h
  · rw [hs]; exact Sounder.claimAt_nodup p level stamp h

/-! ## The claim law (R18, R83) -/

theorem claimOf_congr (c : PointConfig) {d d' : Point} (h1 : d.state = d'.state) (h2 : d.hushed = d'.hushed) :
    claimOf c d = claimOf c d' := by
  simp [claimOf, h1, h2]

@[simp] theorem Sounder.chirp_claimants (now : Nat) (s : Sounder) : (s.chirp now).1.claimants = s.claimants := by
  unfold Sounder.chirp; split_ifs <;> rfl

@[simp] theorem Sounder.chirp_claimLevel (now : Nat) (s : Sounder) (p : PointId) :
    (s.chirp now).1.claimLevel p = s.claimLevel p := by
  unfold Sounder.chirp; split_ifs <;> rfl

/-- The claim law is kept by every primitive change of an operation that reads the same configuration. -/
theorem Alarm.ClaimLaw.closed (test defer : Bool) (c : Configuration) :
    Alarm.Closed test defer c (Alarm.ClaimLaw c) where
  keep a p d h1 h2 h := by
    refine ⟨h.once, fun q => ?_⟩
    rw [Alarm.setPoint_sounder, Alarm.setPoint_points, h.claims q]
    split
    · next hq => subst hq; exact claimOf_congr _ h1.symm h2.symm
    · rfl
  claim e a p d hc _ _ h := by
    refine ⟨Sounder.passClaim_nodup _ _ _ _ _ _ h.once, fun q => ?_⟩
    rw [Alarm.passClaim_points, Alarm.setPoint_points]
    simp only [Alarm.passClaim, Sounder.passClaim_claimLevel, Alarm.setPoint_sounder, Alarm.setPoint_points, if_true, hc]
    split
    · next hq => subst hq; rfl
    · exact h.claims q
  append _ _ h := ⟨h.once, h.claims⟩
  chirp a h := by
    refine ⟨?_, fun q => ?_⟩
    · have := Sounder.chirp_claimants a.journal.elapsed a.sounder
      exact (this ▸ h.once : (a.sounder.chirp a.journal.elapsed).1.claimants.Nodup)
    · simpa [Alarm.chirp] using h.claims q
  groups _ _ _ _ h := ⟨h.once, h.claims⟩
  shelf _ _ h := ⟨h.once, h.claims⟩
  chatter _ _ h := ⟨h.once, h.claims⟩

/-! ## The channel law (R84, R90, R96) -/

theorem Sounder.target0_congr {s t : Sounder} (h : s.w = t.w) : s.target0 = t.target0 := by
  simp [Sounder.target0, h]

theorem Sounder.target1_congr {s t : Sounder} (h : s.w = t.w) (hd : s.dual = t.dual) : s.target1 = t.target1 := by
  simp [Sounder.target1, h, hd]

@[simp] theorem Channel.startLevel_mode (now : Nat) (t : LevelTone) (l : Level) :
    (Channel.startLevel now t l).mode = .level l := rfl

@[simp] theorem Channel.startChirp_mode (now : Nat) (t : ChirpTone) : (Channel.startChirp now t).mode = .chirp := rfl

@[simp] theorem Channel.startTest_mode (now : Nat) (t : TestTone) : (Channel.startTest now t).mode = .test := rfl

/-! A wave that is carried on changes nothing of the record but the wave (R79). -/

@[simp] theorem Channel.carry_mode (now : Nat) (c d : Channel) : (c.carry now d).mode = d.mode := by
  unfold Channel.carry; split <;> rfl

@[simp] theorem Channel.carry_copy (now : Nat) (c d : Channel) : (c.carry now d).copy = d.copy := by
  unfold Channel.carry; split <;> rfl

@[simp] theorem Channel.carry_pitch (now : Nat) (c d : Channel) : (c.carry now d).pitch = d.pitch := by
  unfold Channel.carry; split <;> rfl

@[simp] theorem Channel.carry_loudness (now : Nat) (c d : Channel) : (c.carry now d).loudness = d.loudness := by
  unfold Channel.carry; split <;> rfl

@[simp] theorem Channel.carry_phaseOn (now : Nat) (c d : Channel) : (c.carry now d).phaseOn = d.phaseOn := by
  unfold Channel.carry; split <;> rfl

@[simp] theorem Channel.carry_cadence (now : Nat) (c d : Channel) : (c.carry now d).cadence = d.cadence := by
  unfold Channel.carry; split <;> rfl

@[simp] theorem Channel.carry_escalation (now : Nat) (c d : Channel) : (c.carry now d).escalation = d.escalation := by
  unfold Channel.carry; split <;> rfl

@[simp] theorem Channel.carry_chirpTimer (now : Nat) (c d : Channel) : (c.carry now d).chirpTimer = d.chirpTimer := by
  unfold Channel.carry; split <;> rfl

@[simp] theorem Channel.extendChirp_mode (now : Nat) (t : ChirpTone) (c : Channel) :
    (c.extendChirp now t).mode = .chirp := Channel.carry_mode ..

@[simp] theorem Channel.goIdle_mode (c : Channel) : c.goIdle.mode = .idle := rfl

theorem Channel.startLevel_timer (now : Nat) (t : LevelTone) (l : Level) : (Channel.startLevel now t l).TimerLaw := by
  intro h; exact absurd rfl h

theorem Channel.startTest_timer (now : Nat) (t : TestTone) : (Channel.startTest now t).TimerLaw := by
  intro h; exact absurd rfl h

theorem Channel.startChirp_timer (now : Nat) (t : ChirpTone) : (Channel.startChirp now t).TimerLaw := fun _ => rfl

theorem Channel.extendChirp_timer (now : Nat) (t : ChirpTone) (c : Channel) : (c.extendChirp now t).TimerLaw :=
  fun _ => Channel.extendChirp_mode ..

theorem Channel.goIdle_timer (c : Channel) : c.goIdle.TimerLaw := by
  intro h; exact absurd rfl h

theorem Channel.bring_timer (now : Nat) (t : ToneSet) (r : LevelSet) (target : Option Level) {c : Channel}
    (h : c.TimerLaw) : (c.bring now t r target).TimerLaw := by
  unfold Channel.bring
  split
  · split
    · exact h
    · exact Channel.startLevel_timer _ _ _
  all_goals first | exact h | exact Channel.startLevel_timer _ _ _ | exact Channel.goIdle_timer _

/-- A channel brought to its target plays it (the table of R84). -/
theorem Channel.bring_assigned (now : Nat) (t : ToneSet) (r : LevelSet) (target : Option Level) (c : Channel) :
    (c.bring now t r target).Assigned target := by
  unfold Channel.bring
  split
  · next l m hm =>
    split
    · next h => exact ⟨fun k => by simp [hm, h.1], by simp [hm]⟩
    · exact ⟨fun k => by simp, by simp⟩
  all_goals (next hm => exact ⟨fun k => by simp [hm], by simp [hm]⟩)

theorem Sounder.assign_channelLaw (now : Nat) (r : LevelSet) {s : Sounder} (h0 : s.ch0.TimerLaw) (h1 : s.ch1.TimerLaw) :
    (s.assign now r).ChannelLaw false where
  timer0 := Channel.bring_timer _ _ _ _ h0
  timer1 := Channel.bring_timer _ _ _ _ h1
  testing h := by cases h
  assigned _ := ⟨Channel.bring_assigned .., Channel.bring_assigned ..⟩

theorem Sounder.startTest_channelLaw (now : Nat) (s : Sounder) : (s.startTest now).ChannelLaw true where
  timer0 := Channel.startTest_timer _ _
  timer1 := Channel.startTest_timer _ _
  testing _ := ⟨rfl, rfl⟩
  assigned h := by cases h

theorem Channel.chirping_iff (c : Channel) : c.chirping = true ↔ c.mode = .chirp := by simp [Channel.chirping]

/-- A channel that plays a chirp, or nothing, has no target (R84). -/
theorem Channel.Assigned.none {t : Option Level} {c : Channel} (h : c.Assigned t) (hc : c.mode = .chirp ∨ c.mode = .idle) :
    t = none := by
  cases t with
  | none => rfl
  | some l =>
    have := (h.level l).mpr rfl
    rcases hc with hc | hc <;> simp [hc] at this

theorem Channel.startChirp_assigned (now : Nat) (t : ChirpTone) : (Channel.startChirp now t).Assigned none :=
  ⟨fun l => by simp, by simp⟩

theorem Channel.extendChirp_assigned (now : Nat) (t : ChirpTone) (c : Channel) : (c.extendChirp now t).Assigned none :=
  ⟨fun l => by simp, by simp⟩

theorem Sounder.chirp_channelLaw {test : Bool} (now : Nat) {s : Sounder} (h : s.ChannelLaw test) :
    (s.chirp now).1.ChannelLaw test := by
  unfold Sounder.chirp
  split
  · next h0 =>
    rw [Channel.chirping_iff] at h0
    refine ⟨Channel.extendChirp_timer _ _ _, h.timer1, fun ht => ?_, fun ht => ?_⟩
    · simp [(h.testing ht).1] at h0
    · obtain ⟨h3, h4⟩ := h.assigned ht
      have := h3.none (.inl h0)
      exact ⟨by change Channel.Assigned s.target0 _; rw [this]; exact Channel.extendChirp_assigned _ _ _, h4⟩
  · split
    · next h1 =>
      rw [Channel.chirping_iff] at h1
      refine ⟨h.timer0, Channel.extendChirp_timer _ _ _, fun ht => ?_, fun ht => ?_⟩
      · simp [(h.testing ht).2] at h1
      · obtain ⟨h3, h4⟩ := h.assigned ht
        have := h4.none (.inl h1)
        exact ⟨h3, by change Channel.Assigned s.target1 _; rw [this]; exact Channel.extendChirp_assigned _ _ _⟩
    · split
      · next h1 =>
        refine ⟨h.timer0, Channel.startChirp_timer _ _, fun ht => ?_, fun ht => ?_⟩
        · simp [(h.testing ht).2] at h1
        · obtain ⟨h3, h4⟩ := h.assigned ht
          have := h4.none (.inr h1)
          exact ⟨h3, by change Channel.Assigned s.target1 _; rw [this]; exact Channel.startChirp_assigned _ _⟩
      · exact ⟨h.timer0, h.timer1, h.testing, h.assigned⟩

theorem Sounder.claimAt_channels (s : Sounder) (p : PointId) (level : Option Level) (stamp : Nat) :
    (s.claimAt p level stamp).ch0 = s.ch0 ∧ (s.claimAt p level stamp).ch1 = s.ch1 ∧
      (s.claimAt p level stamp).dual = s.dual ∧ (s.claimAt p level stamp).tones = s.tones := by
  cases level with
  | none => exact ⟨rfl, rfl, rfl, rfl⟩
  | some l => cases l <;> exact ⟨rfl, rfl, rfl, rfl⟩

theorem Sounder.passClaim_channelLaw {test : Bool} (now : Nat) (p : PointId) (level : Option Level) (stamp : Nat)
    {s : Sounder} (h : s.ChannelLaw test) : (s.passClaim test false now p level stamp).ChannelLaw test := by
  obtain ⟨c0, c1, cd, -⟩ := Sounder.claimAt_channels s p level stamp
  rcases Sounder.passClaim_cases test false now p level stamp s with ⟨-, hs⟩ | ⟨hw, hs⟩ | ⟨-, ht, hs⟩
  · rw [hs]; exact h
  · rw [hs]
    refine ⟨c0 ▸ h.timer0, c1 ▸ h.timer1, fun ht => by rw [c0, c1]; exact h.testing ht, fun ht => ?_⟩
    have hw' : (s.claimAt p level stamp).w = s.w := by
      rcases hw with hw | hw | hw
      · exact hw
      · cases hw
      · rw [ht] at hw; cases hw
    rw [c0, c1, Sounder.target0_congr hw', Sounder.target1_congr hw' cd]
    exact h.assigned ht
  · rw [hs, ht]
    exact Sounder.assign_channelLaw _ _ (c0 ▸ h.timer0) (c1 ▸ h.timer1)

/-- Outside commit apply and warm restart every primitive change keeps the channel law. -/
theorem Sounder.ChannelLaw.closed (test : Bool) (c : Configuration) :
    Alarm.Closed test false c fun a => a.sounder.ChannelLaw test where
  keep _ _ _ _ _ h := h
  claim e a p d _ ht hd h := by
    simp only [Alarm.passClaim, ht, hd]
    exact Sounder.passClaim_channelLaw _ _ _ _ h
  append _ _ h := h
  chirp _ h := Sounder.chirp_channelLaw _ h
  groups _ _ _ _ h := h
  shelf _ _ h := h
  chatter _ _ h := h

/-- What a commit apply and a warm restart keep of the channels before their one evaluation: chirp timers run only on
chirping channels. -/
theorem Sounder.timers_closed (test : Bool) (c : Configuration) :
    Alarm.Closed test true c fun a => a.sounder.ch0.TimerLaw ∧ a.sounder.ch1.TimerLaw where
  keep _ _ _ _ _ h := h
  claim e a p d _ _ hd h := by
    obtain ⟨c0, c1, -, -⟩ := Sounder.claimAt_channels a.sounder p
      (claimOf e.config.points[p] (a.setPoint p d).points[p]) (a.setPoint p d).points[p].entryStamp
    have := Sounder.passClaim_cases e.test true a.journal.elapsed p
      (claimOf e.config.points[p] (a.setPoint p d).points[p]) (a.setPoint p d).points[p].entryStamp a.sounder
    simp only [Alarm.passClaim, hd, Alarm.setPoint_sounder, Alarm.setPoint_journal]
    rcases this with ⟨-, hs⟩ | ⟨-, hs⟩ | ⟨hf, -, -⟩
    · rw [hs]; exact h
    · rw [hs, c0, c1]; exact h
    · cases hf
  append _ _ h := h
  chirp a h := by
    simp only [Alarm.chirp, Sounder.chirp]
    split_ifs
    · exact ⟨Channel.extendChirp_timer _ _ _, h.2⟩
    · exact ⟨h.1, Channel.extendChirp_timer _ _ _⟩
    · exact ⟨h.1, Channel.startChirp_timer _ _⟩
    · exact h
  groups _ _ _ _ h := h
  shelf _ _ h := h
  chatter _ _ h := h

end Sys2Proof.Machine
end

