-- ==== Sys2Proof/Laws/Sequence.lean ====
section
/-! SUPPORT. The Sequence Engine's operations point by point: which points are DISABLED or SHELVED after each, and the law
that a group is armed exactly while no member of it is active (R50). -/

namespace Sys2Proof.Machine

/-! ## One point's change -/

theorem Alarm.transition_points (e : Env) (p q : PointId) (d : Point) (cause : Cause) (a : Alarm) :
    (a.transition e p d cause).points[q] = if q = p then d else a.points[q] := Alarm.setPoint_points ..

@[simp] theorem Alarm.transition_groups (e : Env) (p : PointId) (d : Point) (cause : Cause) (a : Alarm) :
    (a.transition e p d cause).groups = a.groups := rfl

@[simp] theorem Alarm.transition_shelf (e : Env) (p : PointId) (d : Point) (cause : Cause) (a : Alarm) :
    (a.transition e p d cause).shelf = a.shelf := rfl

@[simp] theorem Alarm.transition_chatter (e : Env) (p : PointId) (d : Point) (cause : Cause) (a : Alarm) :
    (a.transition e p d cause).chatter = a.chatter := rfl

@[simp] theorem Alarm.disarm_points (e : Env) (p : PointId) (a : Alarm) : (a.disarm e p).points = a.points := by
  unfold Alarm.disarm; split <;> rfl

@[simp] theorem Alarm.disarm_shelf (e : Env) (p : PointId) (a : Alarm) : (a.disarm e p).shelf = a.shelf := by
  unfold Alarm.disarm; split <;> rfl

@[simp] theorem Alarm.disarm_chatter (e : Env) (p : PointId) (a : Alarm) : (a.disarm e p).chatter = a.chatter := by
  unfold Alarm.disarm; split <;> rfl

@[simp] theorem Alarm.rearm_points (c : Configuration) (g : GroupId) (a : Alarm) : (a.rearm c g).points = a.points := by
  unfold Alarm.rearm; split <;> rfl

@[simp] theorem Alarm.rearm_shelf (c : Configuration) (g : GroupId) (a : Alarm) : (a.rearm c g).shelf = a.shelf := by
  unfold Alarm.rearm; split <;> rfl

@[simp] theorem Alarm.rearmGroupOf_points (c : Configuration) (p : PointId) (a : Alarm) :
    (a.rearmGroupOf c p).points = a.points := by
  unfold Alarm.rearmGroupOf; split <;> simp

@[simp] theorem Alarm.rearmGroupOf_shelf (c : Configuration) (p : PointId) (a : Alarm) :
    (a.rearmGroupOf c p).shelf = a.shelf := by
  unfold Alarm.rearmGroupOf; split <;> simp

@[simp] theorem Sequence.entryState_active (q : Sequence) : q.entryState.active = true := by cases q <;> rfl

/-- An entry changes one point's dynamic record, and no other's. -/
theorem Alarm.enter_points (e : Env) (p q : PointId) (cause : Cause) (a : Alarm) :
    (a.enter e p cause).points[q] = if q = p then a.entered e p else a.points[q] := by
  unfold Alarm.enter Alarm.entered
  cases hs : e.config.points[p].sequence <;>
    simp only [Sequence.entryState, Alarm.transition_points, Alarm.chirp_points] <;>
    (split <;> [rfl; (split <;> simp)])

@[simp] theorem Alarm.enter_shelf (e : Env) (p : PointId) (cause : Cause) (a : Alarm) :
    (a.enter e p cause).shelf = a.shelf := by
  unfold Alarm.enter
  cases e.config.points[p].sequence <;>
    simp only [Alarm.transition_shelf, Alarm.chirp_shelf] <;> (split <;> simp)

/-- An entry disarms the point's group where it was armed, and changes no group else (R47). -/
theorem Alarm.enter_groups (e : Env) (p : PointId) (g : GroupId) (cause : Cause) (a : Alarm) :
    (a.enter e p cause).groups[g] =
      if e.config.points[p].group = some g ∧ a.groups[g].armed = true
      then { a.groups[g] with armed := false, first := some p } else a.groups[g] := by
  have hd : (if a.findsArmed e p then a.disarm e p else a).groups[g] =
      if e.config.points[p].group = some g ∧ a.groups[g].armed = true
      then { a.groups[g] with armed := false, first := some p } else a.groups[g] := by
    unfold Alarm.findsArmed Alarm.disarm
    cases hg : e.config.points[p].group with
    | none => simp
    | some h =>
      have hset (v : Group) : ({ a with groups := a.groups.set h v } : Alarm).groups[g] =
          if g = h then v else a.groups[g] := getElem_set_fin ..
      by_cases hh : g = h
      · subst hh
        dsimp only
        by_cases ha : a.groups[g].armed = true
        · rw [if_pos ha, if_pos ⟨rfl, ha⟩, hset, if_pos rfl]
        · rw [if_neg ha, if_neg fun hc => ha hc.2]
      · have hn : ¬(some h = some g ∧ a.groups[g].armed = true) := fun hc => hh (Option.some.inj hc.1).symm
        rw [if_neg hn]
        dsimp only
        split
        · rw [hset, if_neg hh]
        · rfl
  unfold Alarm.enter
  cases e.config.points[p].sequence <;>
    simpa only [Alarm.transition_groups, Alarm.chirp_groups] using hd

/-! ## Releases (R54) -/

@[simp] theorem Alarm.release_nil (e : Env) (a : Alarm) : a.release e [] = a := rfl

@[simp] theorem Alarm.release_cons (e : Env) (q : PointId) (qs : List PointId) (a : Alarm) :
    a.release e (q :: qs) = (a.enter e q .release).release e qs := rfl

@[simp] theorem Alarm.release_shelf (e : Env) (qs : List PointId) (a : Alarm) : (a.release e qs).shelf = a.shelf := by
  induction qs generalizing a with
  | nil => rfl
  | cons q qs ih => simp [ih]

/-- A point that is not released keeps its dynamic record. -/
theorem Alarm.release_points_of_notMem (e : Env) (q : PointId) (qs : List PointId) (a : Alarm) (h : q ∉ qs) :
    (a.release e qs).points[q] = a.points[q] := by
  induction qs generalizing a with
  | nil => rfl
  | cons r qs ih =>
    simp only [List.mem_cons, not_or] at h
    rw [Alarm.release_cons, ih _ h.2, Alarm.enter_points, if_neg h.1]

/-- A released point is in the state its entry leads to. -/
theorem Alarm.release_state_of_mem (e : Env) (q : PointId) (qs : List PointId) (a : Alarm) (h : q ∈ qs) :
    (a.release e qs).points[q].state = e.config.points[q].sequence.entryState := by
  induction qs generalizing a with
  | nil => simp at h
  | cons r qs ih =>
    rw [Alarm.release_cons]
    by_cases hq : q ∈ qs
    · exact ih _ hq
    · have hr : q = r := by simpa [hq] using h
      subst hr
      rw [Alarm.release_points_of_notMem e q qs _ hq, Alarm.enter_points, if_pos rfl]
      rfl

theorem Alarm.mem_heldBack (c : Configuration) (p q : PointId) (a : Alarm) :
    q ∈ a.heldBack c p ↔ a.points[q].state = .suppressed ∧ c.points[q].suppressor = some p := by
  simp [Alarm.heldBack, allPoints]

/-! ## Moves and new occurrences -/

@[simp] theorem Alarm.left_shelf (e : Env) (p : PointId) (a : Alarm) : (a.left e p).shelf = a.shelf := by
  simp [Alarm.left]

@[simp] theorem Alarm.move_shelf (e : Env) (p : PointId) (to_ : PointState) (cause : Cause) (a : Alarm) :
    (a.move e p to_ cause).shelf = a.shelf := by
  unfold Alarm.move; split <;> simp

@[simp] theorem Alarm.newOccurrence_shelf (e : Env) (p : PointId) (cause : Cause) (a : Alarm) :
    (a.newOccurrence e p cause).shelf = a.shelf := by
  unfold Alarm.newOccurrence; simp only; split <;> simp

/-- The points after R8's effects: the consequents of `p` released, every other point as it was. -/
theorem Alarm.left_points (e : Env) (p q : PointId) (a : Alarm) :
    (a.left e p).points[q] = (a.release e (a.heldBack e.config p)).points[q] := by
  simp [Alarm.left]

@[simp] theorem Alarm.moved_state (e : Env) (p : PointId) (to_ : PointState) (a : Alarm) :
    (a.moved e p to_).state = to_ := rfl

/-- A state that no release, entry, acknowledgement or reset leads to or from. -/
def PointState.settled (t : PointState) : Prop := t = .disabled ∨ t = .shelved

theorem Sequence.entryState_not_settled {t : PointState} (h : t.settled) (q : Sequence) : q.entryState ≠ t := by
  rcases h with rfl | rfl <;> cases q <;> simp [Sequence.entryState]

theorem Alarm.left_settled {t : PointState} (ht : t.settled) (e : Env) (p q : PointId) (a : Alarm) :
    (a.left e p).points[q].state = t ↔ a.points[q].state = t := by
  rw [Alarm.left_points]
  by_cases h : q ∈ a.heldBack e.config p
  · rw [Alarm.release_state_of_mem e q _ a h, ((Alarm.mem_heldBack ..).mp h).1]
    simp only [Sequence.entryState_not_settled ht, false_iff]
    rcases ht with rfl | rfl <;> simp
  · rw [Alarm.release_points_of_notMem e q _ a h]

/-- After a move the point is in a settled state exactly when the move led there; every other point is as it was. -/
theorem Alarm.move_settled {t : PointState} (ht : t.settled) (e : Env) (p q : PointId) (to_ : PointState) (cause : Cause)
    (a : Alarm) :
    (a.move e p to_ cause).points[q].state = t ↔ if q = p then to_ = t else a.points[q].state = t := by
  have hm : ((a.transition e p (a.moved e p to_) cause).points[q]).state = t ↔
      if q = p then to_ = t else a.points[q].state = t := by
    rw [Alarm.transition_points]
    split <;> simp
  unfold Alarm.move
  simp only
  split
  · rw [Alarm.left_settled ht, hm]
  · exact hm

/-- A new occurrence leaves its point in no settled state, and every other point as it was. -/
theorem Alarm.newOccurrence_settled {t : PointState} (ht : t.settled) (e : Env) (p q : PointId) (cause : Cause)
    (a : Alarm) : (a.newOccurrence e p cause).points[q].state = t ↔ q ≠ p ∧ a.points[q].state = t := by
  unfold Alarm.newOccurrence
  simp only
  split
  · rw [Alarm.move_settled ht, Alarm.setPoint_points]
    by_cases h : q = p
    · simp only [h, if_true, ne_eq, not_true, false_and, iff_false]
      rcases ht with rfl | rfl <;> simp
    · simp [h]
  · rw [Alarm.enter_points, Alarm.setPoint_points]
    by_cases h : q = p
    · subst h
      simp [Alarm.entered, Sequence.entryState_not_settled ht]
    · simp [h]

/-! ## Armed groups (R47, R50) -/

theorem Alarm.groupActive_iff (c : Configuration) (g : GroupId) (a : Alarm) :
    a.groupActive c g = true ↔ ∃ q : PointId, c.points[q].group = some g ∧ a.points[q].state.active = true := by
  simp [Alarm.groupActive, allPoints]

/-- Whether a group is active depends on its members' states alone. -/
theorem Alarm.groupActive_congr {c : Configuration} {g : GroupId} {a b : Alarm}
    (h : ∀ q : PointId, c.points[q].group = some g → b.points[q].state.active = a.points[q].state.active) :
    b.groupActive c g = a.groupActive c g := by
  rw [Bool.eq_iff_iff, Alarm.groupActive_iff, Alarm.groupActive_iff]
  constructor
  · rintro ⟨q, h1, h2⟩; exact ⟨q, h1, by rw [← h q h1]; exact h2⟩
  · rintro ⟨q, h1, h2⟩; exact ⟨q, h1, by rw [h q h1]; exact h2⟩

/-- The group law while a point of group `g0` is leaving the active states: that group is still not armed (R8, R54), every
other obeys the law. -/
def Alarm.GroupLawBut (c : Configuration) (g0 : Option GroupId) (a : Alarm) : Prop :=
  ∀ g : GroupId, if some g = g0 then a.groups[g].armed = false else a.groups[g].armed = !a.groupActive c g

theorem Alarm.groupLaw_iff (c : Configuration) (a : Alarm) : a.GroupLaw c ↔ a.GroupLawBut c none := by
  simp [Alarm.GroupLaw, Alarm.GroupLawBut]

theorem Alarm.enter_groupLawBut {e : Env} {g0 : Option GroupId} {a : Alarm} (p : PointId) (cause : Cause)
    (h : a.GroupLawBut e.config g0) : (a.enter e p cause).GroupLawBut e.config g0 := by
  intro g
  have hg := h g
  rw [Alarm.enter_groups]
  by_cases hp : e.config.points[p].group = some g
  · have hact : (a.enter e p cause).groupActive e.config g = true := by
      rw [Alarm.groupActive_iff]
      exact ⟨p, hp, by rw [Alarm.enter_points, if_pos rfl]; simp [Alarm.entered]⟩
    have harm : (if e.config.points[p].group = some g ∧ a.groups[g].armed = true
        then ({ a.groups[g] with armed := false, first := some p } : Group) else a.groups[g]).armed = false := by
      split
      · rfl
      · next hc => exact Bool.eq_false_iff.mpr fun ha => hc ⟨hp, ha⟩
    split
    · exact harm
    · rw [harm, hact]; rfl
  · have hact : (a.enter e p cause).groupActive e.config g = a.groupActive e.config g := by
      apply Alarm.groupActive_congr
      intro q hq
      rw [Alarm.enter_points, if_neg]
      intro hqp
      exact hp (hqp ▸ hq)
    rw [if_neg (by tauto : ¬(e.config.points[p].group = some g ∧ a.groups[g].armed = true)), hact]
    exact hg

theorem Alarm.release_groupLawBut {e : Env} {g0 : Option GroupId} (qs : List PointId) {a : Alarm}
    (h : a.GroupLawBut e.config g0) : (a.release e qs).GroupLawBut e.config g0 := by
  induction qs generalizing a with
  | nil => exact h
  | cons q qs ih => exact ih (Alarm.enter_groupLawBut q .release h)

/-- The re-arm check restores the law of the group it looks at (R50). -/
theorem Alarm.rearmGroupOf_groupLaw {c : Configuration} {p : PointId} {a : Alarm}
    (h : a.GroupLawBut c c.points[p].group) : (a.rearmGroupOf c p).GroupLaw c := by
  unfold Alarm.rearmGroupOf
  cases hp : c.points[p].group with
  | none => rw [hp] at h; exact (Alarm.groupLaw_iff ..).mpr h
  | some g0 =>
    rw [hp] at h
    simp only
    intro g
    have hg := h g
    have hset (v : Group) : ({ a with groups := a.groups.set g0 v } : Alarm).groups[g] =
        if g = g0 then v else a.groups[g] := getElem_set_fin ..
    have hact (gs : Vector Group 8) : ({ a with groups := gs } : Alarm).groupActive c g = a.groupActive c g := rfl
    unfold Alarm.rearm
    by_cases he : g = g0
    · subst he
      simp only [if_true] at hg
      cases ha : a.groupActive c g
      · simp only [Bool.false_eq_true, if_false]
        rw [hset, hact, if_pos rfl, ha]; rfl
      · simp only [if_true]
        rw [hg, ha]; rfl
    · rw [if_neg (by simpa using he)] at hg
      cases ha : a.groupActive c g0
      · simp only [Bool.false_eq_true, if_false]
        rw [hset, hact, if_neg he]
        exact hg
      · simpa only [if_true] using hg

/-- A change of a point's record that leaves it in or out of the active states as it was keeps the group law. -/
theorem Alarm.setPoint_groupLaw {c : Configuration} {g0 : Option GroupId} {a : Alarm} (p : PointId) (d : Point)
    (hd : d.state.active = a.points[p].state.active) (h : a.GroupLawBut c g0) : (a.setPoint p d).GroupLawBut c g0 := by
  intro g
  have hg := h g
  rw [Alarm.groupActive_congr (b := a.setPoint p d) (a := a)]
  · exact hg
  · intro q _
    rw [Alarm.setPoint_points]
    split
    · next hq => subst hq; exact hd
    · rfl

/-- A move keeps the group law, whenever it leads into the active states only from within them. -/
theorem Alarm.move_groupLaw {e : Env} {a : Alarm} (p : PointId) (to_ : PointState) (cause : Cause)
    (ht : to_.active = true → a.points[p].state.active = true) (h : a.GroupLaw e.config) :
    (a.move e p to_ cause).GroupLaw e.config := by
  unfold Alarm.move
  simp only
  split
  · next hc =>
    simp only [Bool.and_eq_true, Bool.not_eq_true'] at hc
    apply Alarm.rearmGroupOf_groupLaw
    apply Alarm.release_groupLawBut
    intro g
    rw [Alarm.transition_groups]
    split
    · next hg =>
      rw [h g]
      simp only [Bool.not_eq_false', Alarm.groupActive_iff]
      exact ⟨p, hg.symm, hc.1⟩
    · next hg =>
      rw [h g, Alarm.groupActive_congr]
      intro q hq
      rw [Alarm.transition_points, if_neg]
      intro hqp
      exact hg (hqp ▸ hq.symm)
  · next hc =>
    refine (Alarm.groupLaw_iff ..).mpr (Alarm.setPoint_groupLaw p _ ?_ ((Alarm.groupLaw_iff ..).mp h))
    rw [Alarm.moved_state]
    cases ha : a.points[p].state.active <;> cases hb : to_.active <;> simp_all

theorem Alarm.newOccurrence_groupLaw {e : Env} {a : Alarm} (p : PointId) (cause : Cause) (h : a.GroupLaw e.config) :
    (a.newOccurrence e p cause).GroupLaw e.config := by
  have hk := Alarm.setPoint_groupLaw p { a.points[p] with occurrence := occurrenceAfter a.points[p].occurrence } rfl
    ((Alarm.groupLaw_iff ..).mp h)
  unfold Alarm.newOccurrence
  simp only
  split
  · exact Alarm.move_groupLaw p _ _ (by simp [PointState.active]) ((Alarm.groupLaw_iff ..).mpr hk)
  · exact (Alarm.groupLaw_iff ..).mpr (Alarm.enter_groupLawBut p cause hk)

end Sys2Proof.Machine
end

