-- ==== Sys2Proof/Laws/Moves.lean ====
section
/-! SUPPORT. What a move and a new occurrence do, said once: every later proof about a point's change cites
`Alarm.move_moved` and `Alarm.newOccurrence_entered`. -/

namespace Sys2Proof.Machine

/-! ## Claims, lamps and records of one change -/

theorem Alarm.transition_claimLevel (e : Env) (p q : PointId) (d : Point) (cause : Cause) (a : Alarm) :
    (a.transition e p d cause).sounder.claimLevel q =
      if q = p then claimOf e.config.points[p] d else a.sounder.claimLevel q := by
  simp only [Alarm.transition, Alarm.append_sounder, Alarm.passClaim, Sounder.passClaim_claimLevel,
    Alarm.setPoint_sounder, Alarm.setPoint_points, if_true]

theorem Alarm.transition_lamps (e : Env) (p q : PointId) (d : Point) (cause : Cause) (a : Alarm) :
    (a.transition e p d cause).lamps[q] = if q = p then d.pattern else a.lamps[q] := Alarm.setPoint_lamps ..

theorem Alarm.transition_journal (e : Env) (p : PointId) (d : Point) (cause : Cause) (a : Alarm) :
    (a.transition e p d cause).journal = a.journal.append (pointRecord e p a.points[p].state d cause) := rfl

@[simp] theorem Alarm.disarm_journal (e : Env) (p : PointId) (a : Alarm) : (a.disarm e p).journal = a.journal := by
  unfold Alarm.disarm; split <;> rfl

@[simp] theorem Alarm.disarm_lamps (e : Env) (p : PointId) (a : Alarm) : (a.disarm e p).lamps = a.lamps := by
  unfold Alarm.disarm; split <;> rfl

@[simp] theorem Alarm.disarm_sounder (e : Env) (p : PointId) (a : Alarm) : (a.disarm e p).sounder = a.sounder := by
  unfold Alarm.disarm; split <;> rfl

@[simp] theorem Alarm.rearmGroupOf_journal (c : Configuration) (p : PointId) (a : Alarm) :
    (a.rearmGroupOf c p).journal = a.journal := by
  unfold Alarm.rearmGroupOf Alarm.rearm; split <;> [rfl; (split <;> rfl)]

@[simp] theorem Alarm.rearmGroupOf_lamps (c : Configuration) (p : PointId) (a : Alarm) :
    (a.rearmGroupOf c p).lamps = a.lamps := by
  unfold Alarm.rearmGroupOf Alarm.rearm; split <;> [rfl; (split <;> rfl)]

@[simp] theorem Alarm.rearmGroupOf_sounder (c : Configuration) (p : PointId) (a : Alarm) :
    (a.rearmGroupOf c p).sounder = a.sounder := by
  unfold Alarm.rearmGroupOf Alarm.rearm; split <;> [rfl; (split <;> rfl)]

@[simp] theorem Alarm.rearmGroupOf_chatter (c : Configuration) (p : PointId) (a : Alarm) :
    (a.rearmGroupOf c p).chatter = a.chatter := by
  unfold Alarm.rearmGroupOf Alarm.rearm; split <;> [rfl; (split <;> rfl)]

@[simp] theorem Alarm.chirp_claimLevel (p : PointId) (a : Alarm) :
    a.chirp.sounder.claimLevel p = a.sounder.claimLevel p := Sounder.chirp_claimLevel ..

@[simp] theorem Alarm.enter_chatter (e : Env) (p : PointId) (cause : Cause) (a : Alarm) :
    (a.enter e p cause).chatter = a.chatter := by
  unfold Alarm.enter
  cases e.config.points[p].sequence <;>
    simp only [Alarm.transition_chatter, Alarm.chirp_chatter] <;> (split <;> simp)

theorem Alarm.enter_claimLevel (e : Env) (p q : PointId) (cause : Cause) (a : Alarm) :
    (a.enter e p cause).sounder.claimLevel q =
      if q = p then claimOf e.config.points[p] (a.entered e p) else a.sounder.claimLevel q := by
  unfold Alarm.enter Alarm.entered
  cases e.config.points[p].sequence <;>
    simp only [Sequence.entryState, Alarm.transition_claimLevel, Alarm.chirp_claimLevel] <;> (split <;> [rfl; (split <;> simp)])

theorem Alarm.enter_lamps (e : Env) (p q : PointId) (cause : Cause) (a : Alarm) :
    (a.enter e p cause).lamps[q] = if q = p then (a.entered e p).pattern else a.lamps[q] := by
  unfold Alarm.enter Alarm.entered
  cases e.config.points[p].sequence <;>
    simp only [Sequence.entryState, Alarm.transition_lamps, Alarm.chirp_lamps] <;> (split <;> [rfl; (split <;> simp)])

/-- An entry asks for its chirp where the point is NOTICE, and passes on its claim (R7, R18, R89). -/
theorem Alarm.enter_sounder (e : Env) (p : PointId) (cause : Cause) (a : Alarm) :
    (a.enter e p cause).sounder =
      (if e.config.points[p].sequence = .notice then (a.sounder.chirp a.journal.elapsed).1 else a.sounder).passClaim
        e.test e.defer a.journal.elapsed p (claimOf e.config.points[p] (a.entered e p)) a.journal.nextSeq := by
  unfold Alarm.enter Alarm.entered
  cases e.config.points[p].sequence <;>
    simp only [Sequence.entryState, Alarm.transition, Alarm.append_sounder, Alarm.passClaim, Alarm.setPoint_points,
      if_true, Alarm.setPoint_sounder, Alarm.setPoint_journal, Alarm.chirp_points, reduceCtorEq, if_false] <;>
    (split <;> simp [Alarm.chirp])

/-- An entry appends one record. -/
theorem Alarm.enter_journal (e : Env) (p : PointId) (cause : Cause) (a : Alarm) :
    (a.enter e p cause).journal = a.journal.append (pointRecord e p a.points[p].state (a.entered e p) cause) := by
  unfold Alarm.enter Alarm.entered
  cases e.config.points[p].sequence <;>
    simp only [Sequence.entryState, Alarm.transition_journal, Alarm.chirp_journal, Alarm.chirp_points] <;> (split <;> simp)

/-! ## Releases -/

@[simp] theorem Alarm.release_chatter (e : Env) (qs : List PointId) (a : Alarm) :
    (a.release e qs).chatter = a.chatter := by
  induction qs generalizing a with
  | nil => rfl
  | cons q qs ih => simp [ih]

theorem Alarm.release_claimLevel_of_notMem (e : Env) (p : PointId) (qs : List PointId) (a : Alarm) (h : p ∉ qs) :
    (a.release e qs).sounder.claimLevel p = a.sounder.claimLevel p := by
  induction qs generalizing a with
  | nil => rfl
  | cons r qs ih =>
    simp only [List.mem_cons, not_or] at h
    rw [Alarm.release_cons, ih _ h.2, Alarm.enter_claimLevel, if_neg h.1]

theorem Alarm.release_lamps_of_notMem (e : Env) (p : PointId) (qs : List PointId) (a : Alarm) (h : p ∉ qs) :
    (a.release e qs).lamps[p] = a.lamps[p] := by
  induction qs generalizing a with
  | nil => rfl
  | cons r qs ih =>
    simp only [List.mem_cons, not_or] at h
    rw [Alarm.release_cons, ih _ h.2, Alarm.enter_lamps, if_neg h.1]

@[simp] theorem firstOf_nil (c : Configuration) (g : GroupId) : firstOf c g [] = none := rfl

theorem firstOf_cons (c : Configuration) (g : GroupId) (r : PointId) (qs : List PointId) :
    firstOf c g (r :: qs) = if c.points[r].group = some g then some r else firstOf c g qs := by
  unfold firstOf
  rw [List.find?_cons]
  by_cases h : c.points[r].group = some g <;> simp [h, -Fin.getElem_fin]

/-- The group records after a release: the first member of an armed group among the released takes the mark (R47). -/
theorem Alarm.release_groups (e : Env) (g : GroupId) (qs : List PointId) (a : Alarm) :
    (a.release e qs).groups[g] = Group.afterEntries e.config g qs a.groups[g] := by
  induction qs generalizing a with
  | nil => rfl
  | cons r qs ih =>
    rw [Alarm.release_cons, ih, Alarm.enter_groups]
    unfold Group.afterEntries
    rw [firstOf_cons]
    by_cases hr : e.config.points[r].group = some g
    · by_cases ha : a.groups[g].armed = true <;> simp only [hr, ha, true_and, if_true, if_false, Bool.false_eq_true] <;>
        split <;> rfl
    · simp only [hr, false_and, if_false]

theorem Alarm.takesMark_cons_ne {e : Env} {r q : PointId} (h : q ≠ r) (qs : List PointId) (a : Alarm) :
    (a.enter e r .release).takesMark e.config qs q = a.takesMark e.config (r :: qs) q := by
  unfold Alarm.takesMark
  split
  · next g hg =>
    rw [Alarm.enter_groups, firstOf_cons]
    by_cases hr : e.config.points[r].group = some g
    · by_cases ha : a.groups[g].armed = true <;> simp [hr, ha, h.symm, -Fin.getElem_fin]
    · simp only [hr, false_and, if_false]
  · rfl

/-- What a release leaves of its point, whatever else is released with it. -/
theorem Alarm.release_point_of_mem (e : Env) (q : PointId) (qs : List PointId) (a : Alarm) (h : q ∈ qs)
    (hn : qs.Nodup) :
    (a.release e qs).points[q] =
      { a.points[q] with
        state := e.config.points[q].sequence.entryState
        hushed := false
        mark := a.takesMark e.config qs q || a.points[q].mark
        entryStamp := seqAfter^[qs.idxOf q] a.journal.nextSeq
        reminder := none } ∧
    (a.release e qs).lamps[q] = (a.release e qs).points[q].pattern ∧
    (a.release e qs).sounder.claimLevel q = claimOf e.config.points[q] (a.release e qs).points[q] := by
  induction qs generalizing a with
  | nil => simp at h
  | cons r qs ih =>
    obtain ⟨hr, hn'⟩ := List.nodup_cons.mp hn
    rw [Alarm.release_cons]
    by_cases hq : q = r
    · subst hq
      have hp : ((a.enter e q .release).release e qs).points[q] = a.entered e q := by
        rw [Alarm.release_points_of_notMem e q qs _ hr, Alarm.enter_points, if_pos rfl]
      have hm : a.takesMark e.config (q :: qs) q = a.findsArmed e q := by
        unfold Alarm.takesMark Alarm.findsArmed
        cases hg : e.config.points[q].group <;> simp [firstOf_cons, hg, -Fin.getElem_fin]
      refine ⟨?_, ?_, ?_⟩
      · rw [hp, hm, List.idxOf_cons_self]; rfl
      · rw [hp, Alarm.release_lamps_of_notMem e q qs _ hr, Alarm.enter_lamps, if_pos rfl]
      · rw [hp, Alarm.release_claimLevel_of_notMem e q qs _ hr, Alarm.enter_claimLevel, if_pos rfl]
    · have hm : q ∈ qs := (List.mem_cons.mp h).resolve_left hq
      obtain ⟨h1, h2, h3⟩ := ih (a.enter e r .release) hm hn'
      refine ⟨?_, h2, h3⟩
      rw [h1, Alarm.enter_points, if_neg hq, Alarm.takesMark_cons_ne hq, Alarm.enter_journal, Journal.append_nextSeq,
        List.idxOf_cons_ne _ (Ne.symm hq), Function.iterate_succ_apply]

/-- The records of a release, in its order; each shows its point as it stands at the end. -/
theorem Alarm.release_journal (e : Env) (qs : List PointId) (a : Alarm) (hn : qs.Nodup) :
    (a.release e qs).journal =
      a.journal.appendAll (qs.map fun q => pointRecord e q a.points[q].state (a.release e qs).points[q] .release) := by
  induction qs generalizing a with
  | nil => rfl
  | cons r qs ih =>
    obtain ⟨hr, hn'⟩ := List.nodup_cons.mp hn
    have hfin : ((a.enter e r .release).release e qs).points[r] = a.entered e r := by
      rw [Alarm.release_points_of_notMem e r qs _ hr, Alarm.enter_points, if_pos rfl]
    rw [Alarm.release_cons, ih _ hn', Alarm.enter_journal, List.map_cons, Journal.appendAll_cons, hfin]
    congr 1
    apply List.map_congr_left
    intro q hq
    rw [Alarm.enter_points, if_neg (by rintro rfl; exact hr hq)]

/-! ## Moves -/

/-- A move, with everything it can do (R8, R16, R17, R54). -/
theorem Alarm.move_moved (e : Env) (p : PointId) (to_ : PointState) (cause : Cause) (a : Alarm)
    (ht : to_ ≠ .suppressed ∨ e.config.points[p].suppressor ≠ some p ∨ a.points[p].state.active = false) :
    Alarm.Moved e p to_ cause a (a.move e p to_ cause) := by
  have hpt (q : PointId) (hq : q ≠ p) :
      (a.transition e p (a.moved e p to_) cause).points[q] = a.points[q] := by
    rw [Alarm.transition_points, if_neg hq]
  have hpp : (a.transition e p (a.moved e p to_) cause).points[p] = a.moved e p to_ := by
    rw [Alarm.transition_points, if_pos rfl]
  have hmark (a' : Alarm) : (a'.moved e p to_).mark =
      (a'.points[p].mark && (to_.active || !a'.points[p].state.active)) := by
    simp only [Alarm.moved]
    cases a'.points[p].state.active <;> cases to_.active <;> simp
  by_cases hl : (a.points[p].state.active && !to_.active) = true
  · have hmv : a.move e p to_ cause = (a.transition e p (a.moved e p to_) cause).left e p := by
      simp only [Alarm.move, hl, if_true]
    have hself : ¬(to_ = .suppressed ∧ e.config.points[p].suppressor = some p) := by
      rintro ⟨h1, h2⟩
      rcases ht with h | h | h
      · exact h h1
      · exact h h2
      · rw [h] at hl; simp at hl
    generalize hb : a.transition e p (a.moved e p to_) cause = b at *
    have hpn : p ∉ b.heldBack e.config p := by
      rw [Alarm.mem_heldBack, hpp]
      exact hself
    have hheld (q : PointId) (hq : q ≠ p) : q ∈ b.heldBack e.config p ↔ a.frees e.config p to_ q = true := by
      rw [Alarm.mem_heldBack, hpt q hq]
      unfold Alarm.frees
      rw [hl, Bool.true_and]
      simp
    have hfilter : b.heldBack e.config p = allPoints.filter fun q => decide (q ≠ p) && a.frees e.config p to_ q := by
      unfold Alarm.heldBack
      apply List.filter_congr
      intro q _
      by_cases hq : q = p
      · subst hq
        rw [hpp]
        simp only [Alarm.moved, ne_eq, not_true_eq_false, decide_false, Bool.false_and, Bool.and_eq_false_iff,
          decide_eq_false_iff_not]
        exact (not_and_or.mp hself).imp decide_eq_false id
      · have := hheld q hq
        rw [Alarm.mem_heldBack] at this
        rw [Bool.eq_iff_iff]
        simpa [hq] using this
    have hnd : (b.heldBack e.config p).Nodup := (List.nodup_finRange 96).filter _
    have hfreed : b.heldBack e.config p = a.freedBy e.config p to_ := hfilter
    have hnd : (a.freedBy e.config p to_).Nodup := (List.nodup_finRange 96).filter _
    have hpm : p ∉ a.freedBy e.config p to_ := hfreed ▸ hpn
    have hmem (q : PointId) (hq : q ≠ p) : q ∈ a.freedBy e.config p to_ ↔ a.frees e.config p to_ q = true := by
      rw [← hfreed]; exact hheld q hq
    have hpts (q : PointId) : (a.move e p to_ cause).points[q] = (b.release e (a.freedBy e.config p to_)).points[q] := by
      rw [hmv, Alarm.left_points, hfreed]
    have hlamps (q : PointId) : (a.move e p to_ cause).lamps[q] = (b.release e (a.freedBy e.config p to_)).lamps[q] := by
      rw [hmv]; unfold Alarm.left; rw [Alarm.rearmGroupOf_lamps, hfreed]
    have hclaims (q : PointId) : (a.move e p to_ cause).sounder.claimLevel q =
        (b.release e (a.freedBy e.config p to_)).sounder.claimLevel q := by
      rw [hmv]; unfold Alarm.left; rw [Alarm.rearmGroupOf_sounder, hfreed]
    have hpoint : (a.move e p to_ cause).points[p] = a.moved e p to_ := by
      rw [hpts, Alarm.release_points_of_notMem e p _ b hpm, hpp]
    have hjb : b.journal = a.journal.append (pointRecord e p a.points[p].state (a.moved e p to_) cause) := by
      rw [← hb]; rfl
    have hgb : b.groups = a.groups := by rw [← hb]; rfl
    have hrel (q : PointId) (hq : q ≠ p) (hf : a.frees e.config p to_ q = true) :=
      Alarm.release_point_of_mem e q _ b ((hmem q hq).mpr hf) hnd
    have hnrel (q : PointId) (hq : q ≠ p) (hf : a.frees e.config p to_ q = false) :
        q ∉ a.freedBy e.config p to_ := by rw [hmem q hq, hf]; simp
    refine ⟨by rw [hpoint]; rfl, by rw [hpoint]; rfl, by rw [hpoint]; exact hmark a, by rw [hpoint]; rfl,
      by rw [hpoint]; rfl, by rw [hpoint]; rfl, by rw [hpoint]; rfl, ?_, ?_, ?_, ?_, ?_, ?_, ?_, ?_, ?_, ?_⟩
    · rw [hpoint, hlamps, Alarm.release_lamps_of_notMem e p _ b hpm, ← hb, Alarm.transition_lamps, if_pos rfl]
    · rw [hpoint, hclaims, Alarm.release_claimLevel_of_notMem e p _ b hpm, ← hb,
        Alarm.transition_claimLevel, if_pos rfl]
    · intro q hq hf
      have htm : b.takesMark e.config (a.freedBy e.config p to_) q = a.takesMark e.config (a.freedBy e.config p to_) q := by
        unfold Alarm.takesMark; rw [hgb]
      rw [hpts, (hrel q hq hf).1, hpt q hq, htm, hjb, Journal.append_nextSeq, Function.iterate_succ_apply]
    · intro q hq hf
      rw [hpts, Alarm.release_points_of_notMem e q _ b (hnrel q hq hf), hpt q hq]
    · intro q hq
      rw [hlamps, hpts]
      cases hf : a.frees e.config p to_ q
      · rw [if_neg (by simp), Alarm.release_lamps_of_notMem e q _ b (hnrel q hq hf), ← hb, Alarm.transition_lamps,
          if_neg hq]
      · rw [if_pos rfl]; exact (hrel q hq hf).2.1
    · intro q hq
      rw [hclaims, hpts]
      cases hf : a.frees e.config p to_ q
      · rw [if_neg (by simp), Alarm.release_claimLevel_of_notMem e q _ b (hnrel q hq hf), ← hb,
          Alarm.transition_claimLevel, if_neg hq]
      · rw [if_pos rfl]; exact (hrel q hq hf).2.2
    · intro g
      have hrg := Alarm.release_groups e g (a.freedBy e.config p to_) b
      rw [hgb] at hrg
      have hact : (a.move e p to_ cause).groupActive e.config g =
          (b.release e (a.freedBy e.config p to_)).groupActive e.config g :=
        Alarm.groupActive_congr fun q _ => by rw [hpts]
      simp only [Bool.and_eq_true, Bool.not_eq_true'] at hl
      rw [hact]
      simp only [hl, true_and]
      rw [hmv]
      unfold Alarm.left
      rw [hfreed]
      unfold Alarm.rearmGroupOf
      cases hg : e.config.points[p].group with
      | none => simpa using hrg
      | some g0 =>
        simp only
        unfold Alarm.rearm
        by_cases he : g0 = g
        · subst he
          cases ha : (b.release e (a.freedBy e.config p to_)).groupActive e.config g0
          · simp only [Bool.false_eq_true, if_false, and_self, if_true]
            rw [show ({ b.release e (a.freedBy e.config p to_) with
              groups := (b.release e (a.freedBy e.config p to_)).groups.set g0
                { (b.release e (a.freedBy e.config p to_)).groups[g0] with armed := true, first := none } } : Alarm).groups[g0]
                = { (b.release e (a.freedBy e.config p to_)).groups[g0] with armed := true, first := none } from by
              exact (getElem_set_fin ..).trans (if_pos rfl)]
            rw [hrg]
            unfold Group.afterEntries
            split
            · split <;> rfl
            · rfl
          · simpa using hrg
        · have hne : ¬(some g0 = some g ∧ (b.release e (a.freedBy e.config p to_)).groupActive e.config g = false) :=
            fun h => he (Option.some.inj h.1)
          rw [if_neg hne, ← hrg]
          split
          · rfl
          · exact (getElem_set_fin ..).trans (if_neg (Ne.symm he))
    · rw [hpoint, hmv]
      simp only [Alarm.left_points]
      unfold Alarm.left
      rw [Alarm.rearmGroupOf_journal, hfreed, Alarm.release_journal e _ b hnd, hjb, Journal.appendAll_cons]
      congr 1
      apply List.map_congr_left
      intro q hq
      have hq' : q ≠ p := by rintro rfl; exact hpm hq
      have hs : a.points[q].state = .suppressed := by
        have := (hmem q hq').mp hq
        simp only [Alarm.frees, Bool.and_eq_true, decide_eq_true_eq] at this
        exact this.1.2
      rw [hpt q hq', hs]
    · rw [hmv, Alarm.left_shelf, ← hb, Alarm.transition_shelf]
    · rw [hmv]
      unfold Alarm.left
      rw [Alarm.rearmGroupOf_chatter, Alarm.release_chatter, ← hb, Alarm.transition_chatter]
  · have hmv : a.move e p to_ cause = a.transition e p (a.moved e p to_) cause := by
      simp only [Alarm.move, hl, if_false, Bool.false_eq_true]
    have hff (q : PointId) : a.frees e.config p to_ q = false := by
      rw [Bool.not_eq_true] at hl
      unfold Alarm.frees
      rw [hl]
      rfl
    have hfr : a.freedBy e.config p to_ = [] := by simp [Alarm.freedBy, hff]
    rw [hmv]
    refine ⟨by rw [hpp]; rfl, by rw [hpp]; rfl, by rw [hpp]; exact hmark a, by rw [hpp]; rfl, by rw [hpp]; rfl,
      by rw [hpp]; rfl, by rw [hpp]; rfl, ?_, ?_, ?_, ?_, ?_, ?_, ?_, ?_, rfl, rfl⟩
    · rw [hpp, Alarm.transition_lamps, if_pos rfl]
    · rw [hpp, Alarm.transition_claimLevel, if_pos rfl]
    · intro q _ hf; rw [hff] at hf; simp at hf
    · intro q hq _; exact hpt q hq
    · intro q hq; rw [hff, if_neg (by simp), Alarm.transition_lamps, if_neg hq]
    · intro q hq; rw [hff, if_neg (by simp), Alarm.transition_claimLevel, if_neg hq]
    · intro g
      rw [if_neg (fun h => hl (by rw [h.1, h.2.1]; rfl)), hfr]
      rfl
    · rw [hfr, hpp]
      rfl

/-! ## New occurrences -/

/-- A new occurrence whose suppressor is not active, with everything it can do (R6, R7, R47). -/
theorem Alarm.newOccurrence_entered (e : Env) (p : PointId) (cause : Cause) (a : Alarm)
    (h : a.suppressorActive e.config p = false) : Alarm.Entered e p cause a (a.newOccurrence e p cause) := by
  let a' := a.setPoint p { a.points[p] with occurrence := occurrenceAfter a.points[p].occurrence }
  have hs : a'.suppressorActive e.config p = false := by
    rw [← h]
    unfold Alarm.suppressorActive
    split
    · rfl
    · simp only [a', Alarm.setPoint_points]
      split <;> [(next hq => subst hq; rfl); rfl]
  have hn : a.newOccurrence e p cause = a'.enter e p cause := by
    simp only [Alarm.newOccurrence]
    rw [if_neg]
    rw [Bool.not_eq_true]
    exact hs
  have hd : a'.entered e p = { a.entered e p with occurrence := occurrenceAfter a.points[p].occurrence } := by
    simp only [Alarm.entered, a', Alarm.setPoint_points, if_true, Alarm.setPoint_journal, Alarm.findsArmed,
      Alarm.setPoint_groups]
  have hpoint : (a'.enter e p cause).points[p] = a'.entered e p := by rw [Alarm.enter_points, if_pos rfl]
  rw [hn]
  refine ⟨hpoint.trans hd, ?_, ?_, ?_, ?_, ?_, ?_, ?_, ?_, ?_⟩
  · rw [hpoint, Alarm.enter_lamps, if_pos rfl]
  · rw [hpoint, Alarm.enter_claimLevel, if_pos rfl]
  · rw [hpoint, Alarm.enter_sounder]; rfl
  · intro g; exact Alarm.enter_groups ..
  · intro q hq
    rw [Alarm.enter_points, if_neg hq, Alarm.setPoint_points, if_neg hq]
  · intro q hq
    rw [Alarm.enter_lamps, if_neg hq, Alarm.setPoint_lamps, if_neg hq]
  · rw [hpoint, Alarm.enter_journal, Alarm.setPoint_points, if_pos rfl, Alarm.setPoint_journal]
  · rw [Alarm.enter_shelf, Alarm.setPoint_shelf]
  · rw [Alarm.enter_chatter, Alarm.setPoint_chatter]

/-- The release of one point, with everything it can do (R54, R59). -/
theorem Alarm.enter_released (e : Env) (p : PointId) (a : Alarm) : Alarm.Released e p a (a.enter e p .release) := by
  have hpoint : (a.enter e p .release).points[p] = a.entered e p := by rw [Alarm.enter_points, if_pos rfl]
  refine ⟨hpoint, ?_, ?_, ?_, ?_, ?_, ?_, ?_, ?_, ?_⟩
  · rw [hpoint, Alarm.enter_lamps, if_pos rfl]
  · rw [hpoint, Alarm.enter_claimLevel, if_pos rfl]
  · rw [hpoint, Alarm.enter_sounder]; rfl
  · intro g; exact Alarm.enter_groups ..
  · intro q hq; rw [Alarm.enter_points, if_neg hq]
  · intro q hq; rw [Alarm.enter_lamps, if_neg hq]
  · rw [hpoint, Alarm.enter_journal]
  · exact Alarm.enter_shelf ..
  · exact Alarm.enter_chatter ..

/-- A new occurrence by the entry test, of a point that is not its own suppressor (R6, R7, R53). -/
theorem Alarm.newOccurrence_begun (e : Env) (p : PointId) (cause : Cause) (a : Alarm)
    (h : e.config.points[p].suppressor ≠ some p) : Alarm.Begun e p cause a (a.newOccurrence e p cause) := by
  unfold Alarm.Begun
  split
  · next hs =>
    let a' := a.setPoint p { a.points[p] with occurrence := occurrenceAfter a.points[p].occurrence }
    have hs' : a'.suppressorActive e.config p = true := by
      rw [← hs]
      unfold Alarm.suppressorActive
      split
      · rfl
      · simp only [a', Alarm.setPoint_points]
        split <;> [(next hq => subst hq; rfl); rfl]
    have hn : a.newOccurrence e p cause = a'.move e p .suppressed .suppress := by
      simp only [Alarm.newOccurrence]
      exact if_pos hs'
    rw [hn]
    exact Alarm.move_moved e p _ _ a' (.inr (.inl h))
  · next hs => exact Alarm.newOccurrence_entered e p cause a (Bool.not_eq_true _ ▸ hs)

end Sys2Proof.Machine
end

