-- ==== Sys2Proof/Laws/Resolver.lean ====
section
/-! SUPPORT. The Condition Resolver, said once: conditions worked out again are condition changes delivered one after the
other, and nothing else. -/

namespace Sys2Proof.Machine

/-! ## A delivery sets its point's copy of the condition, and no other's -/

/-- Every point's copy of its condition stands as in `v`. -/
def Alarm.Copies (v : PointId → Bool) (a : Alarm) : Prop := ∀ p : PointId, a.points[p].abnormal = v p

theorem Alarm.enter_abnormal (e : Env) (p q : PointId) (cause : Cause) (a : Alarm) :
    (a.enter e p cause).points[q].abnormal = a.points[q].abnormal := by
  rw [Alarm.enter_points]
  split
  · next h => subst h; rfl
  · rfl

theorem Alarm.release_abnormal (e : Env) (qs : List PointId) (q : PointId) (a : Alarm) :
    (a.release e qs).points[q].abnormal = a.points[q].abnormal := by
  induction qs generalizing a with
  | nil => rfl
  | cons r qs ih => rw [Alarm.release_cons, ih, Alarm.enter_abnormal]

theorem Alarm.transition_abnormal (e : Env) (p q : PointId) (d : Point) (cause : Cause) (a : Alarm)
    (h : d.abnormal = a.points[p].abnormal) :
    (a.transition e p d cause).points[q].abnormal = a.points[q].abnormal := by
  rw [Alarm.transition_points]
  split
  · next hq => subst hq; exact h
  · rfl

theorem Alarm.move_abnormal (e : Env) (p q : PointId) (to_ : PointState) (cause : Cause) (a : Alarm) :
    (a.move e p to_ cause).points[q].abnormal = a.points[q].abnormal := by
  have h := Alarm.transition_abnormal e p q (a.moved e p to_) cause a rfl
  unfold Alarm.move
  simp only
  split
  · rw [Alarm.left_points, Alarm.release_abnormal, h]
  · exact h

theorem Alarm.newOccurrence_abnormal (e : Env) (p q : PointId) (cause : Cause) (a : Alarm) :
    (a.newOccurrence e p cause).points[q].abnormal = a.points[q].abnormal := by
  have h : (a.setPoint p { a.points[p] with occurrence := occurrenceAfter a.points[p].occurrence }).points[q].abnormal =
      a.points[q].abnormal := by
    rw [Alarm.setPoint_points]
    split
    · next hq => subst hq; rfl
    · rfl
  unfold Alarm.newOccurrence
  simp only
  split
  · rw [Alarm.move_abnormal, h]
  · rw [Alarm.enter_abnormal, h]

theorem Alarm.qa_abnormal (e : Env) (p q : PointId) (a : Alarm) :
    (a.qa e p).points[q].abnormal = a.points[q].abnormal := by
  unfold Alarm.qa
  split <;> first | exact Alarm.newOccurrence_abnormal .. | rfl

theorem Alarm.qn_abnormal (e : Env) (p q : PointId) (a : Alarm) :
    (a.qn e p).points[q].abnormal = a.points[q].abnormal := by
  unfold Alarm.qn
  split <;> first | exact Alarm.move_abnormal .. | rfl

theorem Alarm.countQA_abnormal (e : Env) (p q : PointId) (a : Alarm) :
    (a.countQA e p).points[q].abnormal = a.points[q].abnormal := by
  have h : (a.limitReached e p).points[q].abnormal = a.points[q].abnormal := by
    unfold Alarm.limitReached
    split
    · unfold Alarm.shelve
      rw [Alarm.move_abnormal]
      rfl
    · rfl
  unfold Alarm.countQA
  simp only
  split_ifs <;> first | rfl | exact h

/-- A condition change delivered sets its point's copy of the condition, and no other's (R4). -/
theorem Alarm.deliver_abnormal (e : Env) (p q : PointId) (v : Bool) (a : Alarm) :
    (a.deliver e p v).points[q].abnormal = if q = p then v else a.points[q].abnormal := by
  have h : (a.setCondition p v).points[q].abnormal = if q = p then v else a.points[q].abnormal := by
    unfold Alarm.setCondition
    rw [Alarm.setPoint_points]
    split <;> rfl
  unfold Alarm.deliver
  simp only
  split
  · exact h
  · rw [Alarm.qa_abnormal, h]
  · rw [Alarm.countQA_abnormal, Alarm.qa_abnormal, h]
  · rw [Alarm.qn_abnormal, h]

/-- After condition changes delivered one after the other each point's copy of its condition is its new one. -/
theorem Alarm.foldl_deliver_abnormal (e : Env) (v : PointId → Bool) (ps : List PointId) (q : PointId) (a : Alarm) :
    (ps.foldl (fun a p => a.deliver e p (v p)) a).points[q].abnormal = if q ∈ ps then v q else a.points[q].abnormal := by
  induction ps generalizing a with
  | nil => rfl
  | cons p ps ih =>
    rw [List.foldl_cons, ih, Alarm.deliver_abnormal]
    by_cases hq : q = p
    · subst hq; simp
    · simp [hq, -Fin.getElem_fin]

/-! ## Conditions worked out again (R37) -/

/-- The conditions of the points of `ps` brought to `v`, each change delivered in the order of `ps`, and nothing else. -/
def Part.brought (o : Origin) (ps : List PointId) (v : PointId → Bool) (s : Part) : Part :=
  { s with
    conditions := tabulate fun p => if p ∈ ps then { s.conditions[p] with abnormal := v p } else s.conditions[p]
    alarm := (ps.filter fun p => decide (v p ≠ s.conditions[p].abnormal)).foldl (fun a p => a.deliver (s.env o) p (v p))
      s.alarm }

theorem tabulate_getElem {n : Nat} {α : Type} (v : Vector α n) : (tabulate fun i : Fin n => v[i]) = v := by
  ext i h
  simp [tabulate]

theorem set_eq_tabulate {n : Nat} {α : Type} (v : Vector α n) (p : Fin n) (x : α) :
    v.set p x = tabulate fun q : Fin n => if q = p then x else v[q] := by
  ext i h
  rw [getElem_tabulate]
  exact getElem_set_fin v p ⟨i, h⟩ x

theorem Part.brought_nil (o : Origin) (v : PointId → Bool) (s : Part) : s.brought o [] v = s := by
  simp only [Part.brought, List.not_mem_nil, if_false, List.filter_nil, List.foldl_nil, tabulate_getElem]

theorem Part.setConditionRecord_conditions (s : Part) (p q : PointId) (c : Condition) :
    (s.setConditionRecord p c).conditions[q] = if q = p then c else s.conditions[q] := getElem_set_fin ..

/-- What a source reads is not touched by a condition worked out again. -/
theorem Part.resolve_conditionOf (o : Origin) (p q : PointId) (s : Part) :
    (s.resolve o p).conditionOf q = s.conditionOf q := by
  have hby (c : Condition) (l : LinkId) (b : Bool) : ({ c with abnormal := b } : Condition).by l = c.by l := by
    cases l <;> rfl
  have hl (r : PointId) (c : Condition) (l : LinkId) : (s.setConditionRecord r c).link l = s.link l := by cases l <;> rfl
  unfold Part.resolve
  simp only
  split
  · rfl
  · unfold Part.conditionOf
    simp only [Part.act_active, Part.act_lines, Part.act_conditions, Part.act_link, hl,
      Part.setConditionRecord_active, Part.setConditionRecord_lines, Part.setConditionRecord_conditions]
    by_cases h : q = p
    · subst h
      simp only [if_true, hby]
    · simp only [h, if_false]

theorem Part.resolve_eq (o : Origin) (p : PointId) (s : Part) : s.resolve o p = s.brought o [p] s.conditionOf := by
  unfold Part.resolve Part.brought
  simp only
  by_cases h : s.conditionOf p = s.conditions[p].abnormal
  · rw [if_pos h]
    have hc : (tabulate fun q => if q ∈ [p] then { s.conditions[q] with abnormal := s.conditionOf q } else s.conditions[q]) =
        s.conditions := by
      rw [← tabulate_getElem s.conditions]
      congr 1
      funext q
      by_cases hq : q = p
      · subst hq; simp [h]
      · simp [hq]
    simp only [hc, List.filter_cons, h, ne_eq, not_true, decide_false, List.filter_nil, Bool.false_eq_true, if_false,
      List.foldl_nil]
  · rw [if_neg h]
    have hc : (tabulate fun q => if q ∈ [p] then { s.conditions[q] with abnormal := s.conditionOf q } else s.conditions[q]) =
        s.conditions.set p { s.conditions[p] with abnormal := s.conditionOf p } := by
      rw [set_eq_tabulate]
      congr 1
      funext q
      by_cases hq : q = p
      · subst hq; simp
      · simp [hq]
    simp only [hc, List.filter_cons, h, ne_eq, not_false_iff, decide_true, List.filter_nil, if_true, List.foldl_cons,
      List.foldl_nil]
    rfl

/-- Several points' conditions worked out again are condition changes delivered one after the other (R37). -/
theorem Part.resolveAll_eq (o : Origin) (ps : List PointId) (s : Part) (h : ps.Nodup) :
    s.resolveAll o ps = s.brought o ps s.conditionOf := by
  induction ps generalizing s with
  | nil => exact (Part.brought_nil ..).symm
  | cons p ps ih =>
    obtain ⟨hp, hn⟩ := List.nodup_cons.mp h
    have hr : s.resolveAll o (p :: ps) = (s.resolve o p).resolveAll o ps := rfl
    have hv : (s.resolve o p).conditionOf = s.conditionOf := funext fun q => Part.resolve_conditionOf o p q s
    rw [hr, ih _ hn, hv, Part.resolve_eq]
    unfold Part.brought
    have hcond (q : PointId) : (tabulate fun r => if r ∈ [p] then { s.conditions[r] with abnormal := s.conditionOf r }
        else s.conditions[r])[q] = if q = p then { s.conditions[q] with abnormal := s.conditionOf q } else s.conditions[q] := by
      rw [Fin.getElem_fin, getElem_tabulate]
      simp
    simp only [hcond]
    have hf : ps.filter (fun q => decide (s.conditionOf q ≠ (if q = p then { s.conditions[q] with abnormal := s.conditionOf q }
        else s.conditions[q]).abnormal)) = ps.filter fun q => decide (s.conditionOf q ≠ s.conditions[q].abnormal) := by
      apply List.filter_congr
      intro q hq
      rw [if_neg (by rintro rfl; exact hp hq)]
    congr 1
    · congr 1
      funext q
      by_cases hq : q = p
      · subst hq; simp [hp]
      · simp [hq]
    · rw [hf]
      by_cases hc : s.conditionOf p = s.conditions[p].abnormal <;> simp [hc, Part.env, -Fin.getElem_fin]

/-! ## Changes of lines (R33) -/

theorem Part.resolveAll_append (o : Origin) (ps qs : List PointId) (s : Part) :
    s.resolveAll o (ps ++ qs) = (s.resolveAll o ps).resolveAll o qs := List.foldl_append ..

theorem Part.mem_pointsOn (s : Part) (src : Source) (p : PointId) : p ∈ s.pointsOn src ↔ s.active.points[p].source = src := by
  simp [Part.pointsOn, allPoints]

theorem Part.pointsOn_nodup (s : Part) (src : Source) : (s.pointsOn src).Nodup := (List.nodup_finRange 96).filter _

/-- The points on a list of lines, line by line. -/
def Part.pointsOnLines (s : Part) (ns : List LineId) : List PointId := ns.flatMap fun n => s.pointsOn (.line n)

theorem Part.pointsOnLines_nodup (s : Part) {ns : List LineId} (h : ns.Nodup) : (s.pointsOnLines ns).Nodup := by
  refine List.nodup_flatMap.mpr ⟨fun n _ => s.pointsOn_nodup _, h.imp ?_⟩
  intro m n hmn p h1 h2
  rw [Part.mem_pointsOn] at h1 h2
  rw [h1] at h2
  exact hmn (Source.line.inj h2)

/-- Changes of several lines delivered: the points on them, line by line, have their conditions worked out again (R33). -/
theorem Part.lineChanges_eq (ns : List LineId) (s : Part) (h : ns.Nodup) :
    ns.foldl Part.lineChanged s = s.brought .line (s.pointsOnLines ns) s.conditionOf := by
  have hf : ns.foldl Part.lineChanged s = s.resolveAll .line (s.pointsOnLines ns) := by
    clear h
    induction ns generalizing s with
    | nil => rfl
    | cons n ns ih =>
      have ha : (s.lineChanged n).active = s.active := by
        unfold Part.lineChanged
        rw [Part.resolveAll_eq _ _ _ (s.pointsOn_nodup _)]
        rfl
      have hp : (s.lineChanged n).pointsOnLines ns = s.pointsOnLines ns := by
        unfold Part.pointsOnLines Part.pointsOn
        rw [ha]
      rw [List.foldl_cons, ih, hp]
      exact (Part.resolveAll_append ..).symm
  rw [hf, Part.resolveAll_eq _ _ _ (s.pointsOnLines_nodup h)]

theorem insertByRank_perm (rank : LineId → Nat) (n : LineId) (ns : List LineId) : (insertByRank rank n ns).Perm (n :: ns) := by
  induction ns with
  | nil => exact .refl _
  | cons m ns ih =>
    unfold insertByRank
    split
    · exact (ih.cons m).trans (.swap n m ns)
    · exact .refl _

/-- The order in which changed lines are taken leaves none out and takes none twice (R33, log 6). -/
theorem orderByRank_perm (rank : LineId → Nat) (ns : List LineId) : (orderByRank rank ns).Perm ns := by
  induction ns with
  | nil => exact .refl _
  | cons n ns ih => exact (insertByRank_perm rank n _).trans (ih.cons n)

/-! ## Assertions (R40, R41, R43) -/

/-- A point's source read, where its Condition Resolver record is `c` (R36). -/
def Part.reading (s : Part) (p : PointId) (c : Condition) : Bool :=
  match s.active.points[p].source with
  | .line n => s.lines[n].abnormal
  | .msg l => c.by l
  | .msgAny => c.byA || c.byB
  | .silent l => decide ((s.link l).state = .silent)

theorem Part.conditionOf_eq (s : Part) (p : PointId) : s.conditionOf p = s.reading p s.conditions[p] := rfl

theorem Part.setConditionRecord_conditionOf (s : Part) (p : PointId) (c : Condition) :
    (s.setConditionRecord p c).conditionOf p = s.reading p c := by
  have hl (l : LinkId) : (s.setConditionRecord p c).link l = s.link l := by cases l <;> rfl
  rw [Part.conditionOf_eq, Part.setConditionRecord_conditions, if_pos rfl]
  unfold Part.reading
  simp only [hl, Part.setConditionRecord_active, Part.setConditionRecord_lines]

/-- The part with the conditions and the alarms of another, which is all that an assertion changes. -/
def Part.resolvedAs (s m : Part) : Part := { s with conditions := m.conditions, alarm := m.alarm }

/-- A list of assertions set or cleared: each point that changes has its assertion set and its condition worked out again,
in list order, and its condition change delivered (R40, R41). -/
structure Part.Asserted (l : LinkId) (v : Bool) (ps : List PointId) (s m : Part) : Prop where
  frame : m = s.resolvedAs m
  changed : ∀ p ∈ ps, s.conditions[p].by l ≠ v → m.conditions[p] =
    { s.conditions[p].setBy l v with abnormal := s.reading p (s.conditions[p].setBy l v) }
  kept : ∀ p : PointId, p ∉ ps ∨ s.conditions[p].by l = v → m.conditions[p] = s.conditions[p]
  alarm : m.alarm = (ps.eraseDups.filter fun p => decide (m.conditions[p].abnormal ≠ s.conditions[p].abnormal)).foldl
    (fun a p => a.deliver (s.env (.link l)) p m.conditions[p].abnormal) s.alarm

theorem Part.resolvedAs_reading (s m : Part) (p : PointId) (c : Condition) :
    (s.resolvedAs m).reading p c = s.reading p c := by
  have hl (l : LinkId) : (s.resolvedAs m).link l = s.link l := by cases l <;> rfl
  unfold Part.reading
  simp only [hl]
  rfl

theorem filter_eraseDups_of_not {α : Type} [BEq α] [LawfulBEq α] (P : α → Bool) (p : α) (h : P p = false) (ps : List α) :
    (ps.filter (fun q => !(q == p))).eraseDups.filter P = ps.eraseDups.filter P := by
  have key : ∀ (n : Nat) (ps : List α), ps.length ≤ n →
      (ps.filter (fun q => !(q == p))).eraseDups.filter P = ps.eraseDups.filter P := by
    intro n
    induction n with
    | zero => intro ps hl; simp [List.length_eq_zero_iff.mp (Nat.le_zero.mp hl)]
    | succ n ih =>
      intro ps hl
      cases ps with
      | nil => rfl
      | cons r ps =>
        have hf (x : α) : (ps.filter (fun q => !(q == x))).length ≤ n :=
          le_trans (List.length_filter_le ..) (Nat.le_of_succ_le_succ hl)
        by_cases hr : r = p
        · subst hr
          rw [List.filter_cons_of_neg (by simp), List.eraseDups_cons, List.filter_cons_of_neg (by simp [h])]
        · rw [List.filter_cons_of_pos (by simpa using hr), List.eraseDups_cons, List.eraseDups_cons]
          rw [List.filter_cons, List.filter_cons]
          have hc : (ps.filter (fun q => !(q == p))).filter (fun b => !(b == r)) =
              (ps.filter (fun b => !(b == r))).filter (fun q => !(q == p)) := by
            rw [List.filter_filter, List.filter_filter]
            congr 1
            funext x
            exact Bool.and_comm ..
          rw [hc, ih _ (hf r)]
  exact key ps.length ps le_rfl

theorem filter_eraseDups_cons {α : Type} [BEq α] [LawfulBEq α] (P : α → Bool) (p : α) (ps : List α) :
    (p :: ps).eraseDups.filter P = if P p then p :: (ps.filter (fun q => !(q == p))).eraseDups.filter P
      else ps.eraseDups.filter P := by
  rw [List.eraseDups_cons, List.filter_cons]
  split
  · rfl
  · next h => exact filter_eraseDups_of_not P p (by simpa using h) ps

/-- An assertion set or cleared where it is not so already. -/
def Part.assertOne (l : LinkId) (v : Bool) (s : Part) (p : PointId) : Part :=
  if s.conditions[p].by l = v then s else s.assertPoint l v p

theorem Part.assertAll_fst (l : LinkId) (v : Bool) (ps : List PointId) (s : Part) :
    (s.assertAll l v ps).1 = ps.foldl (Part.assertOne l v) s := by
  have h (n : Nat) : (ps.foldl (assertEntry l v) (s, n)).1 = ps.foldl (Part.assertOne l v) s := by
    induction ps generalizing s n with
    | nil => rfl
    | cons p ps ih =>
      rw [List.foldl_cons, List.foldl_cons]
      unfold assertEntry Part.assertOne
      simp only
      split <;> exact ih ..
  exact h 0

theorem Part.dropAssertions_eq (l : LinkId) (s : Part) :
    s.dropAssertions l = allPoints.foldl (Part.assertOne l false) s := by
  unfold Part.dropAssertions Part.assertOne
  congr 1
  funext s p
  cases s.conditions[p].by l <;> rfl

/-- One assertion: what it leaves of the conditions and the alarms. -/
theorem Part.assertOne_asserted (l : LinkId) (v : Bool) (p : PointId) (s : Part) :
    s.assertOne l v p = s.resolvedAs (s.assertOne l v p) ∧
    (∀ q : PointId, (s.assertOne l v p).conditions[q] = if q = p ∧ s.conditions[p].by l ≠ v
      then { s.conditions[p].setBy l v with abnormal := s.reading p (s.conditions[p].setBy l v) } else s.conditions[q]) ∧
    (s.assertOne l v p).alarm =
      (if (s.assertOne l v p).conditions[p].abnormal ≠ s.conditions[p].abnormal
        then s.alarm.deliver (s.env (.link l)) p (s.assertOne l v p).conditions[p].abnormal else s.alarm) := by
  unfold Part.assertOne
  by_cases h : s.conditions[p].by l = v
  · rw [if_pos h]
    exact ⟨rfl, fun q => by rw [if_neg (fun hc => hc.2 h)], by rw [if_neg (fun hc => hc rfl)]⟩
  · rw [if_neg h]
    have hab : (s.conditions[p].setBy l v).abnormal = s.conditions[p].abnormal := Condition.setBy_abnormal ..
    have hpt : s.assertPoint l v p = if s.reading p (s.conditions[p].setBy l v) = (s.conditions[p].setBy l v).abnormal
        then s.setConditionRecord p (s.conditions[p].setBy l v)
        else ((s.setConditionRecord p (s.conditions[p].setBy l v)).setConditionRecord p
          { s.conditions[p].setBy l v with abnormal := s.reading p (s.conditions[p].setBy l v) }).act (.link l)
            (fun e a => a.deliver e p (s.reading p (s.conditions[p].setBy l v))) := by
      unfold Part.assertPoint Part.resolve
      simp only [Part.setConditionRecord_conditionOf, Part.setConditionRecord_conditions, if_true]
    by_cases hd : s.reading p (s.conditions[p].setBy l v) = (s.conditions[p].setBy l v).abnormal
    · rw [hpt, if_pos hd]
      refine ⟨rfl, fun q => ?_, ?_⟩
      · rw [Part.setConditionRecord_conditions]
        by_cases hq : q = p
        · rw [if_pos hq, if_pos ⟨hq, h⟩, hd]
        · rw [if_neg hq, if_neg (fun hc => hq hc.1)]
      · rw [Part.setConditionRecord_conditions, if_pos rfl, if_neg (fun hc => hc hab)]
        rfl
    · rw [hpt, if_neg hd]
      simp only [Part.act_conditions, Part.setConditionRecord_conditions, if_true]
      refine ⟨rfl, fun q => ?_, ?_⟩
      · by_cases hq : q = p
        · rw [if_pos hq, if_pos ⟨hq, h⟩]
        · simp only [hq, false_and, if_false]
      · rw [if_pos (hab ▸ hd)]
        rfl

/-- A list of assertions, with everything it can do (R40, R41). -/
theorem Part.foldl_asserted (l : LinkId) (v : Bool) (ps : List PointId) (s : Part) :
    Part.Asserted l v ps s (ps.foldl (Part.assertOne l v) s) := by
  induction ps generalizing s with
  | nil => exact ⟨rfl, fun _ h => absurd h (List.not_mem_nil), fun _ _ => rfl, rfl⟩
  | cons p ps ih =>
    rw [List.foldl_cons]
    obtain ⟨hf, hc, ha⟩ := Part.assertOne_asserted l v p s
    have hi := ih (s.assertOne l v p)
    generalize s.assertOne l v p = s1 at *
    generalize ps.foldl (Part.assertOne l v) s1 = m at *
    have hread (q : PointId) (c : Condition) : s1.reading q c = s.reading q c := by rw [hf, Part.resolvedAs_reading]
    have henv : s1.env (.link l) = s.env (.link l) := by rw [hf]; rfl
    have hby : s1.conditions[p].by l = v := by
      rw [hc p]
      split
      · rw [← Condition.setBy_by s.conditions[p] l v]; cases l <;> rfl
      · next h => simpa using h
    have hmp : m.conditions[p] = s1.conditions[p] := hi.kept p (.inr hby)
    have hne (q : PointId) (hq : q ≠ p) : s1.conditions[q] = s.conditions[q] := by rw [hc q, if_neg (fun h => hq h.1)]
    refine ⟨by rw [hi.frame, hf]; rfl, fun q hq hv => ?_, fun q hq => ?_, ?_⟩
    · by_cases hqp : q = p
      · subst hqp; rw [hmp, hc q, if_pos ⟨rfl, hv⟩]
      · have hm : q ∈ ps := (List.mem_cons.mp hq).resolve_left hqp
        rw [hi.changed q hm (by rw [hne q hqp]; exact hv), hne q hqp, hread]
    · by_cases hqp : q = p
      · subst hqp
        rw [hmp, hc q, if_neg]
        rintro ⟨-, h⟩
        rcases hq with hq | hq
        · exact hq List.mem_cons_self
        · exact h hq
      · rw [hi.kept q _, hne q hqp]
        rcases hq with hq | hq
        · exact .inl fun h => hq (List.mem_cons_of_mem _ h)
        · exact .inr (by rw [hne q hqp]; exact hq)
    · rw [filter_eraseDups_cons]
      have hf1 : (ps.eraseDups.filter fun q => decide (m.conditions[q].abnormal ≠ s1.conditions[q].abnormal)) =
          (ps.filter (fun q => !(q == p))).eraseDups.filter fun q =>
            decide (m.conditions[q].abnormal ≠ s.conditions[q].abnormal) := by
        rw [← filter_eraseDups_of_not _ p (by simp [hmp]) ps]
        apply List.filter_congr
        intro q hq
        have hq' : q ≠ p := by
          have := List.mem_eraseDups.mp hq
          simpa using (List.mem_filter.mp this).2
        rw [hne q hq']
      rw [hi.alarm, hf1, henv, ha, hmp]
      by_cases hd : s1.conditions[p].abnormal = s.conditions[p].abnormal
      · simp only [hd, ne_eq, not_true_eq_false, decide_false, Bool.false_eq_true, if_false]
        rw [filter_eraseDups_of_not _ p (by rw [hmp, hd]; simp) ps]
      · simp only [hd, ne_eq, not_false_eq_true, decide_true, if_true, List.foldl_cons, hmp]

/-- Raise and Clear on a checked list, with everything they can do (R40, R41). -/
theorem Part.assertAll_asserted (l : LinkId) (v : Bool) (ps : List PointId) (s : Part) :
    Part.Asserted l v ps s (s.assertAll l v ps).1 := by
  rw [Part.assertAll_fst]; exact Part.foldl_asserted l v ps s

/-- Every assertion of a link dropped (R43). -/
theorem Part.dropAssertions_asserted (l : LinkId) (s : Part) : Part.Asserted l false allPoints s (s.dropAssertions l) := by
  rw [Part.dropAssertions_eq]; exact Part.foldl_asserted l false allPoints s

/-- A Raise or Clear list that passes its check gives its points (R39). -/
theorem Part.checkList_ok (s : Part) (l : LinkId) (ps : List PointId) (n : Nat) (b : List Byte)
    (hb : b.map BitVec.toNat = ps.map Fin.val)
    (h : ∀ p ∈ ps, s.active.points[p].source = .msgAny ∨ s.active.points[p].source = .msg l) :
    s.checkList l n b = .ok ps := by
  induction ps generalizing b n with
  | nil =>
    rw [List.map_nil, List.map_eq_nil_iff] at hb
    subst hb; rfl
  | cons p ps ih =>
    cases b with
    | nil => simp at hb
    | cons c b =>
      simp only [List.map_cons, List.cons.injEq] at hb
      have hs : s.sourceOpen l p = true := by
        simp only [Part.sourceOpen, Bool.or_eq_true, decide_eq_true_eq]
        exact h p List.mem_cons_self
      simp only [Part.checkList, hb.1, point?_val, hs, if_true,
        ih (n + 1) b hb.2 fun q hq => h q (List.mem_cons_of_mem _ hq)]

end Sys2Proof.Machine
end

