-- ==== Sys2Proof/Laws/Sweeps.lean ====
section
/-! SUPPORT. Operations that take one point after the other, each as a chain of changes: Acknowledge All, Reset All, the
releases, and the entry passes. -/

namespace Sys2Proof.Machine

/-! ## Chains -/

theorem Chain.append {R : PointId → Alarm → Alarm → Prop} {ps qs : List PointId} {a b c : Alarm} :
    Chain R ps a b → Chain R qs b c → Chain R (ps ++ qs) a c := by
  induction ps generalizing a with
  | nil => intro h1 h2; cases h1; exact h2
  | cons p ps ih => rintro ⟨m, h1, h2⟩ h3; exact ⟨m, h1, ih h2 h3⟩

/-- A fold is a chain of its steps. -/
theorem Chain.foldl {R : PointId → Alarm → Alarm → Prop} {f : Alarm → PointId → Alarm} {ps : List PointId}
    (h : ∀ p ∈ ps, ∀ a, R p a (f a p)) (a : Alarm) : Chain R ps a (ps.foldl f a) := by
  induction ps generalizing a with
  | nil => rfl
  | cons p ps ih =>
    exact ⟨f a p, h p List.mem_cons_self a, ih (fun q hq => h q (List.mem_cons_of_mem _ hq)) _⟩

/-- Points released from SUPPRESSED, as a chain (R54, R59). -/
theorem Alarm.release_chain (e : Env) (ps : List PointId) (a : Alarm) :
    Chain (Alarm.Released e) ps a (a.release e ps) := Chain.foldl (fun p _ a => Alarm.enter_released e p a) a

/-- The entry passes, as a chain (R60). -/
theorem Alarm.passes_chain (e : Env) (cause : Cause) (ps : List PointId) (a : Alarm)
    (h : ∀ p : PointId, e.config.points[p].suppressor ≠ some p) :
    Chain (fun p => Alarm.Begun e p cause) (e.config.passOrder ps) a (a.passes e cause ps) :=
  Chain.foldl (fun p _ a => Alarm.newOccurrence_begun e p cause a (h p)) a

/-! ## Sweeps -/

/-- A sweep in ascending order: a point is taken where the test says so, looking at the alarms as they then stand. -/
def sweep (test : Alarm → PointId → Bool) (f : Alarm → PointId → Alarm) (ps : List PointId) (a : Alarm) : Alarm :=
  ps.foldl (fun a p => if test a p then f a p else a) a

/-- The points that a sweep takes. -/
def swept (test : Alarm → PointId → Bool) (f : Alarm → PointId → Alarm) : List PointId → Alarm → List PointId
  | [], _ => []
  | p :: ps, a => if test a p then p :: swept test f ps (f a p) else swept test f ps a

theorem sweep_count (test : Alarm → PointId → Bool) (f : Alarm → PointId → Alarm) (ps : List PointId) (a : Alarm) (n : Nat)
    {x : Alarm × Nat} (hx : x = ps.foldl (fun x p => if test x.1 p then (f x.1 p, x.2 + 1) else x) (a, n)) :
    x.1 = sweep test f ps a ∧ x.2 = n + (swept test f ps a).length := by
  subst hx
  induction ps generalizing a n with
  | nil => exact ⟨rfl, rfl⟩
  | cons p ps ih =>
    rw [List.foldl_cons]
    unfold sweep swept
    rw [List.foldl_cons]
    cases test a p
    · exact ih a n
    · simp only [if_true, List.length_cons]
      obtain ⟨h1, h2⟩ := ih (f a p) (n + 1)
      exact ⟨h1, by omega⟩

theorem swept_sublist (test : Alarm → PointId → Bool) (f : Alarm → PointId → Alarm) (ps : List PointId) (a : Alarm) :
    (swept test f ps a).Sublist ps := by
  induction ps generalizing a with
  | nil => exact .refl _
  | cons p ps ih =>
    unfold swept
    split
    · exact (ih _).cons_cons p
    · exact (ih _).cons p

theorem sweep_chain {R : PointId → Alarm → Alarm → Prop} {test : Alarm → PointId → Bool} {f : Alarm → PointId → Alarm}
    {P : List PointId → Alarm → Prop}
    (hR : ∀ p ps a, P (p :: ps) a → test a p = true → R p a (f a p) ∧ P ps (f a p))
    (hP : ∀ p ps a, P (p :: ps) a → test a p = false → P ps a) (ps : List PointId) (a : Alarm) (h : P ps a) :
    Chain R (swept test f ps a) a (sweep test f ps a) := by
  induction ps generalizing a with
  | nil => rfl
  | cons p ps ih =>
    unfold sweep swept
    rw [List.foldl_cons]
    cases ht : test a p
    · exact ih a (hP p ps a h ht)
    · exact ⟨f a p, (hR p ps a h ht).1, ih _ (hR p ps a h ht).2⟩

/-- A point that a move does not name and that is not SUPPRESSED keeps its dynamic record. -/
theorem Alarm.Moved.kept {e : Env} {p q : PointId} {to_ : PointState} {cause : Cause} {a b : Alarm}
    (h : Alarm.Moved e p to_ cause a b) (hq : q ≠ p) (hs : a.points[q].state ≠ .suppressed) : b.points[q] = a.points[q] :=
  h.others q hq (by simp [Alarm.frees, hs, -Fin.getElem_fin])

/-- A point that a move does not name is, where its state changes, in the state its entry leads to. -/
theorem Alarm.Moved.state_or {e : Env} {p q : PointId} {to_ : PointState} {cause : Cause} {a b : Alarm}
    (h : Alarm.Moved e p to_ cause a b) (hq : q ≠ p) :
    b.points[q].state = a.points[q].state ∨ b.points[q].state = e.config.points[q].sequence.entryState := by
  cases hf : a.frees e.config p to_ q
  · left; rw [h.others q hq hf]
  · right; rw [h.freed q hq hf]

/-- Points moved one after the other leave every other that is not SUPPRESSED as it was. -/
theorem Chain.kept {R : PointId → Alarm → Alarm → Prop} {ps : List PointId} {a b : Alarm} {q : PointId}
    (hR : ∀ p a b, R p a b → q ≠ p → a.points[q].state ≠ .suppressed → b.points[q] = a.points[q])
    (h : Chain R ps a b) (hq : q ∉ ps) (hs : a.points[q].state ≠ .suppressed) : b.points[q] = a.points[q] := by
  induction ps generalizing a with
  | nil => cases h; rfl
  | cons p ps ih =>
    obtain ⟨m, h1, h2⟩ := h
    simp only [List.mem_cons, not_or] at hq
    have hm := hR p a m h1 hq.1 hs
    rw [ih h2 hq.2 (by rw [hm]; exact hs), hm]

theorem Alarm.Acknowledged.kept {e : Env} {p q : PointId} {a b : Alarm} (h : Alarm.Acknowledged e p a b) (hq : q ≠ p)
    (hs : a.points[q].state ≠ .suppressed) : b.points[q] = a.points[q] := by
  obtain ⟨t, -, hm⟩ := h
  exact hm.kept hq hs

/-! ## Acknowledge All (R20) -/

/-- A waiting point whose state its sequence's table lists is acknowledged (R9, R10). -/
theorem Alarm.ack_acknowledged {e : Env} {p : PointId} {a : Alarm} (hp : a.points[p].pendingAck = true)
    (h1 : a.points[p].state = .alerting → e.config.points[p].sequence ≠ .notice)
    (h2 : a.points[p].state = .returned → e.config.points[p].sequence = .follow) :
    Alarm.Acknowledged e p a (a.ack e p) := by
  unfold Alarm.ack
  simp only [Point.pendingAck, Bool.or_eq_true, decide_eq_true_eq] at hp
  rcases hp with hp | hp
  · have := h1 hp
    cases hs : e.config.points[p].sequence
    · rw [hp]
      exact ⟨_, .inl ⟨hs, hp, rfl⟩, Alarm.move_moved e p _ _ a (.inl (by split <;> simp))⟩
    · rw [hp]
      exact ⟨_, .inr (.inl ⟨hs, hp, rfl⟩), Alarm.move_moved e p _ _ a (.inl (by simp))⟩
    · exact absurd hs this
  · have hs := h2 hp
    rw [hp, hs]
    exact ⟨_, .inr (.inr ⟨hs, hp, rfl⟩), Alarm.move_moved e p _ _ a (.inl (by simp))⟩

/-- What holds of the alarms while an acknowledgement sweep of `first` has the points of `ps` still to take: the points
still to take that were not SUPPRESSED are as they were, and the states are those of the sequences' tables. -/
structure Alarm.Sweeping (c : Configuration) (first : Alarm) (ps : List PointId) (a : Alarm) : Prop where
  nodup : ps.Nodup
  still : ∀ q ∈ ps, first.points[q].state ≠ .suppressed → a.points[q] = first.points[q]
  alerting : ∀ q : PointId, a.points[q].state = .alerting → c.points[q].sequence ≠ .notice
  returned : ∀ q : PointId, a.points[q].state = .returned → c.points[q].sequence = .follow
  suppressed : ∀ q : PointId, a.points[q].state = .suppressed → first.points[q].state = .suppressed

theorem Alarm.Sweeping.skip {c : Configuration} {first a : Alarm} {p : PointId} {ps : List PointId}
    (h : Alarm.Sweeping c first (p :: ps) a) : Alarm.Sweeping c first ps a where
  nodup := (List.nodup_cons.mp h.nodup).2
  still q hq := h.still q (List.mem_cons_of_mem _ hq)
  alerting := h.alerting
  returned := h.returned
  suppressed := h.suppressed

theorem Sequence.entryState_alerting {q : Sequence} (h : q.entryState = .alerting) : q ≠ .notice := by
  cases q <;> simp_all [Sequence.entryState]

theorem Sequence.entryState_ne {t : PointState} (h : t = .returned ∨ t = .suppressed ∨ t = .awaitReset ∨ t = .idle)
    (q : Sequence) : q.entryState ≠ t := by
  rcases h with rfl | rfl | rfl | rfl <;> cases q <;> simp [Sequence.entryState]

theorem Alarm.Sweeping.ack {e : Env} {first a : Alarm} {p : PointId} {ps : List PointId}
    (h : Alarm.Sweeping e.config first (p :: ps) a) (hp : a.points[p].pendingAck = true) :
    Alarm.Acknowledged e p a (a.ack e p) ∧ Alarm.Sweeping e.config first ps (a.ack e p) := by
  have hack := Alarm.ack_acknowledged hp (h.alerting p) (h.returned p)
  obtain ⟨hn, hnd⟩ := List.nodup_cons.mp h.nodup
  refine ⟨hack, hnd, fun q hq hs => ?_, ?_, ?_, ?_⟩
  · have hqp : q ≠ p := by rintro rfl; exact hn hq
    have hst := h.still q (List.mem_cons_of_mem _ hq) hs
    rw [hack.kept hqp (by rw [hst]; exact hs), hst]
  all_goals
    obtain ⟨t, ht, hm⟩ := hack
    intro q hq
    have hpt : t = .standing ∨ t = .awaitReset ∨ t = .idle := by
      rcases ht with ⟨-, -, ht⟩ | ⟨-, -, ht⟩ | ⟨-, -, ht⟩
      · rw [ht]; split <;> simp
      · simp [ht]
      · simp [ht]
    by_cases hqp : q = p
    · subst hqp
      rw [hm.state] at hq
      rcases hpt with rfl | rfl | rfl <;> cases hq
    · rcases hm.state_or hqp with hst | hst <;> rw [hst] at hq
      · first | exact h.alerting q hq | exact h.returned q hq | exact h.suppressed q hq
      · first
          | exact Sequence.entryState_alerting hq
          | exact absurd hq (Sequence.entryState_ne (by simp) _)

/-- Acknowledge All, with everything it can do (R20, log 8). -/
theorem Alarm.ackAll_chain {e : Env} {a : Alarm} (h : a.SequenceLaw e.config) :
    ∃ ps : List PointId, (a.ackAll e).2 = ps.length ∧ ps.Pairwise (· < ·) ∧
      Chain (Alarm.Acknowledged e) ps a (a.ackAll e).1 ∧
      (∀ p : PointId, a.points[p].pendingAck = true → p ∈ ps) ∧
      (∀ p ∈ ps, a.points[p].pendingAck = true ∨ a.points[p].state = .suppressed) := by
  let test (x : Alarm) (p : PointId) : Bool :=
    x.points[p].pendingAck && (a.points[p].pendingAck || Config.ackTakesReleased)
  let f (x : Alarm) (p : PointId) : Alarm := x.ack e p
  obtain ⟨h1, h2⟩ := sweep_count test f allPoints a 0 (x := a.ackAll e) rfl
  have hstart : Alarm.Sweeping e.config a allPoints a :=
    ⟨List.nodup_finRange 96, fun _ _ _ => rfl, h.alerting, h.returned, fun _ => id⟩
  have hstep (p : PointId) (ps : List PointId) (x : Alarm) (hx : Alarm.Sweeping e.config a (p :: ps) x)
      (ht : test x p = true) := hx.ack (Bool.and_eq_true_iff.mp ht).1
  have hmem : ∀ (ps : List PointId) (x : Alarm), Alarm.Sweeping e.config a ps x →
      (∀ p ∈ ps, a.points[p].pendingAck = true → p ∈ swept test f ps x) ∧
      (∀ p ∈ swept test f ps x, a.points[p].pendingAck = true ∨ a.points[p].state = .suppressed) := by
    intro ps
    induction ps with
    | nil => intro x _; exact ⟨fun _ hp => absurd hp List.not_mem_nil, fun _ hp => absurd hp List.not_mem_nil⟩
    | cons p ps ih =>
      intro x hx
      have hpx : a.points[p].state ≠ .suppressed → x.points[p] = a.points[p] := hx.still p List.mem_cons_self
      unfold swept
      cases ht : test x p
      · obtain ⟨h1, h2⟩ := ih x hx.skip
        refine ⟨fun q hq hw => ?_, h2⟩
        rcases List.mem_cons.mp hq with rfl | hq
        · have hns : a.points[q].state ≠ .suppressed := by
            intro hs
            simp [Point.pendingAck, hs, -Fin.getElem_fin] at hw
          have : test x q = true := by
            simp only [test]
            rw [hpx hns, hw]
            rfl
          rw [this] at ht
          cases ht
        · exact h1 q hq hw
      · obtain ⟨h1, h2⟩ := ih (f x p) (hstep p ps x hx ht).2
        refine ⟨fun q hq hw => ?_, fun q hq => ?_⟩
        · rcases List.mem_cons.mp hq with rfl | hq
          · exact List.mem_cons_self
          · exact List.mem_cons_of_mem _ (h1 q hq hw)
        · rcases List.mem_cons.mp hq with rfl | hq
          · by_cases hs : a.points[q].state = .suppressed
            · exact .inr hs
            · left
              rw [← hpx hs]
              exact (Bool.and_eq_true_iff.mp ht).1
          · exact h2 q hq
  refine ⟨swept test f allPoints a, by rw [h2, Nat.zero_add], ?_, ?_, ?_, ?_⟩
  · exact (List.pairwise_lt_finRange 96).sublist (swept_sublist ..)
  · rw [h1]
    exact sweep_chain (R := Alarm.Acknowledged e) (P := Alarm.Sweeping e.config a) (fun p ps x hx ht => hstep p ps x hx ht)
      (fun p ps x hx _ => hx.skip) allPoints a hstart
  · exact fun p hp => (hmem allPoints a hstart).1 p (List.mem_finRange p) hp
  · exact (hmem allPoints a hstart).2

/-! ## Reset All (R23) -/

/-- Reset All, with everything it can do. -/
theorem Alarm.resetAll_chain (e : Env) (a : Alarm) :
    (a.resetAll e).2 = (allPoints.filter fun p => decide (a.points[p].state = .awaitReset)).length ∧
    Chain (fun p => Alarm.Moved e p .idle .rst) (allPoints.filter fun p => decide (a.points[p].state = .awaitReset)) a
      (a.resetAll e).1 := by
  let test (x : Alarm) (p : PointId) : Bool := decide (x.points[p].state = .awaitReset)
  let f (x : Alarm) (p : PointId) : Alarm := x.rst e p
  obtain ⟨h1, h2⟩ := sweep_count test f allPoints a 0 (x := a.resetAll e) (by
    unfold Alarm.resetAll
    congr 1
    funext x p
    simp [test, f, -Fin.getElem_fin])
  have hmove (x : Alarm) (p : PointId) : Alarm.Moved e p .idle .rst x (f x p) := Alarm.move_moved e p _ _ x (.inl (by simp))
  have hsw : ∀ (ps : List PointId) (x : Alarm), ps.Nodup →
      (∀ q ∈ ps, (x.points[q].state = .awaitReset ↔ a.points[q].state = .awaitReset)) →
      swept test f ps x = ps.filter fun p => decide (a.points[p].state = .awaitReset) := by
    intro ps
    induction ps with
    | nil => intro x _ _; rfl
    | cons p ps ih =>
      intro x hn hx
      obtain ⟨hp, hn'⟩ := List.nodup_cons.mp hn
      have hx' : ∀ q ∈ ps, (x.points[q].state = .awaitReset ↔ a.points[q].state = .awaitReset) :=
        fun q hq => hx q (List.mem_cons_of_mem _ hq)
      unfold swept
      rw [List.filter_cons]
      by_cases ht : x.points[p].state = .awaitReset
      · rw [if_pos (decide_eq_true ht), if_pos (decide_eq_true ((hx p List.mem_cons_self).mp ht)), ih _ hn']
        intro q hq
        have hqp : q ≠ p := by rintro rfl; exact hp hq
        by_cases hs : x.points[q].state = .suppressed
        · rw [← hx' q hq, hs]
          simp only [reduceCtorEq, iff_false]
          rcases (hmove x p).state_or hqp with h | h <;> rw [h]
          · rw [hs]; simp
          · exact Sequence.entryState_ne (by simp) _
        · rw [(hmove x p).kept hqp hs]; exact hx' q hq
      · rw [if_neg (by simpa [test] using ht),
          if_neg (by rw [decide_eq_true_eq, ← hx p List.mem_cons_self]; exact ht), ih _ hn' hx']
  have hl := hsw allPoints a (List.nodup_finRange 96) fun _ _ => Iff.rfl
  refine ⟨by rw [h2, hl, Nat.zero_add], ?_⟩
  rw [h1, ← hl]
  exact sweep_chain (R := fun p => Alarm.Moved e p .idle .rst) (P := fun _ _ => True)
    (fun p _ x _ _ => ⟨hmove x p, trivial⟩) (fun _ _ _ _ _ => trivial) allPoints a trivial

end Sys2Proof.Machine
end

