-- ==== Sys2Proof/Laws/Apply.lean ====
section
/-! SUPPORT. What a commit apply does to the alarms, step by step: `Alarm.apply_steps` says it once. -/

namespace Sys2Proof.Machine

/-! ## Claims and channels while the evaluation waits -/

/-- While the evaluation waits, a claim passed on leaves the channels as they are (R100). -/
theorem Sounder.passClaim_defer (test : Bool) (now : Nat) (p : PointId) (level : Option Level) (stamp : Nat) (s : Sounder) :
    (s.passClaim test true now p level stamp).ch0 = s.ch0 ∧ (s.passClaim test true now p level stamp).ch1 = s.ch1 := by
  obtain ⟨c0, c1, -, -⟩ := Sounder.claimAt_channels s p level stamp
  rcases Sounder.passClaim_cases test true now p level stamp s with ⟨-, hs⟩ | ⟨-, hs⟩ | ⟨hf, -, -⟩
  · rw [hs]; exact ⟨rfl, rfl⟩
  · rw [hs]; exact ⟨c0, c1⟩
  · cases hf

/-- From `a` to `b` only claims have moved, and chatter records have been cleared. -/
structure Alarm.Reclaimed (a b : Alarm) : Prop where
  points : b.points = a.points
  lamps : b.lamps = a.lamps
  groups : b.groups = a.groups
  shelf : b.shelf = a.shelf
  journal : b.journal = a.journal
  channels : b.sounder.ch0 = a.sounder.ch0 ∧ b.sounder.ch1 = a.sounder.ch1

/-- The claims of the kept points moved to their new priorities, and the chatter records whose limit changes cleared
(R27, R76, log 18). -/
theorem Alarm.foldl_reclaimed {e : Env} (he : e.defer = true) (old : Configuration) (ps : List PointId) (a : Alarm) :
    let b := ps.foldl (fun a p => (a.passClaim e p).applyChatter old e.config p) a
    Alarm.Reclaimed a b ∧
    (∀ q : PointId, b.sounder.claimLevel q =
      if q ∈ ps then claimOf e.config.points[q] a.points[q] else a.sounder.claimLevel q) ∧
    (∀ q : PointId, b.chatter[q] =
      if q ∈ ps ∧ old.points[q].chatterLimit ≠ e.config.points[q].chatterLimit then ⟨0, none⟩ else a.chatter[q]) := by
  induction ps generalizing a with
  | nil => exact ⟨⟨rfl, rfl, rfl, rfl, rfl, rfl, rfl⟩, fun _ => rfl, fun q => by simp⟩
  | cons p ps ih =>
    have hc : (a.passClaim e p).sounder.ch0 = a.sounder.ch0 ∧ (a.passClaim e p).sounder.ch1 = a.sounder.ch1 := by
      simp only [Alarm.passClaim, he]
      exact Sounder.passClaim_defer ..
    have hcl (q : PointId) : (a.passClaim e p).sounder.claimLevel q =
        if q = p then claimOf e.config.points[p] a.points[p] else a.sounder.claimLevel q := Sounder.passClaim_claimLevel ..
    obtain ⟨b, hb, h1, h2, h3⟩ : ∃ b, b = (a.passClaim e p).applyChatter old e.config p ∧ Alarm.Reclaimed a b ∧
        (∀ q : PointId, b.sounder.claimLevel q =
          if q = p then claimOf e.config.points[p] a.points[p] else a.sounder.claimLevel q) ∧
        (∀ q : PointId, b.chatter[q] =
          if q = p ∧ old.points[q].chatterLimit ≠ e.config.points[q].chatterLimit then ⟨0, none⟩ else a.chatter[q]) := by
      refine ⟨_, rfl, ?_⟩
      unfold Alarm.applyChatter
      by_cases hl : old.points[p].chatterLimit = e.config.points[p].chatterLimit
      · rw [if_pos hl]
        refine ⟨⟨rfl, rfl, rfl, rfl, rfl, hc⟩, hcl, fun q => ?_⟩
        rw [if_neg]
        · rfl
        · rintro ⟨rfl, h⟩; exact h hl
      · rw [if_neg hl]
        refine ⟨⟨rfl, rfl, rfl, rfl, rfl, hc⟩, hcl, fun q => ?_⟩
        rw [Alarm.setChatter_chatter]
        by_cases hq : q = p
        · subst hq; rw [if_pos rfl, if_pos ⟨rfl, hl⟩]
        · rw [if_neg hq, if_neg (fun h => hq h.1)]; rfl
    obtain ⟨i1, i2, i3⟩ := ih b
    rw [List.foldl_cons, ← hb]
    refine ⟨⟨i1.points.trans h1.points, i1.lamps.trans h1.lamps, i1.groups.trans h1.groups, i1.shelf.trans h1.shelf,
      i1.journal.trans h1.journal, i1.channels.1.trans h1.channels.1, i1.channels.2.trans h1.channels.2⟩, fun q => ?_, fun q => ?_⟩
    · rw [i2, h2, h1.points]
      by_cases hq : q = p
      · subst hq; simp
      · simp [hq, -Fin.getElem_fin]
    · rw [i3, h3]
      by_cases hq : q = p
      · subst hq
        by_cases hl : old.points[q].chatterLimit = e.config.points[q].chatterLimit <;> simp [hl, -Fin.getElem_fin]
      · simp [hq, -Fin.getElem_fin]

/-! ## Steps 1 and 2 (R27, R57, R76) -/

/-- One point of step 1 or 2: its chatter record cleared, in step 1 its shelf entry removed, and the point set. -/
def Alarm.settle (e : Env) (unshelf : Bool) (to_ : PointState) (a : Alarm) (p : PointId) : Alarm :=
  ((if unshelf then a.removeEntry p else a).setChatter p {}).transition e p (a.points[p].cleared to_) .commit

theorem Alarm.applyDisable_eq (e : Env) : Alarm.applyDisable e = Alarm.settle e true .disabled := rfl

theorem Alarm.applyReset_eq (e : Env) : Alarm.applyReset e = Alarm.settle e false .idle := rfl

/-- Points set one after the other, with everything that does. -/
theorem Alarm.foldl_settle {e : Env} (he : e.defer = true) (unshelf : Bool) (to_ : PointState) (ps : List PointId)
    (hn : ps.Nodup) (a : Alarm) :
    let b := ps.foldl (Alarm.settle e unshelf to_) a
    (∀ q : PointId, b.points[q] = if q ∈ ps then a.points[q].cleared to_ else a.points[q]) ∧
    (∀ q : PointId, b.lamps[q] = if q ∈ ps then (a.points[q].cleared to_).pattern else a.lamps[q]) ∧
    (∀ q : PointId, b.sounder.claimLevel q =
      if q ∈ ps then claimOf e.config.points[q] (a.points[q].cleared to_) else a.sounder.claimLevel q) ∧
    (b.sounder.ch0 = a.sounder.ch0 ∧ b.sounder.ch1 = a.sounder.ch1) ∧
    b.journal = a.journal.appendAll (ps.map fun p => pointRecord e p a.points[p].state (a.points[p].cleared to_) .commit) ∧
    b.shelf = (if unshelf then a.shelf.filter fun n => decide (n.point ∉ ps) else a.shelf) ∧
    (∀ q : PointId, b.chatter[q] = if q ∈ ps then ⟨0, none⟩ else a.chatter[q]) ∧
    b.groups = a.groups := by
  induction ps generalizing a with
  | nil => simp
  | cons p ps ih =>
    obtain ⟨hp, hn'⟩ := List.nodup_cons.mp hn
    obtain ⟨b, hb, p1, p2, p3, p4, p5, p6, p7, p8⟩ : ∃ b, b = a.settle e unshelf to_ p ∧
        (∀ q : PointId, b.points[q] = if q = p then a.points[p].cleared to_ else a.points[q]) ∧
        (∀ q : PointId, b.lamps[q] = if q = p then (a.points[p].cleared to_).pattern else a.lamps[q]) ∧
        (∀ q : PointId, b.sounder.claimLevel q =
          if q = p then claimOf e.config.points[p] (a.points[p].cleared to_) else a.sounder.claimLevel q) ∧
        (b.sounder.ch0 = a.sounder.ch0 ∧ b.sounder.ch1 = a.sounder.ch1) ∧
        b.journal = a.journal.append (pointRecord e p a.points[p].state (a.points[p].cleared to_) .commit) ∧
        b.shelf = (if unshelf then a.shelf.filter fun n => n.point ≠ p else a.shelf) ∧
        (∀ q : PointId, b.chatter[q] = if q = p then ⟨0, none⟩ else a.chatter[q]) ∧
        b.groups = a.groups := by
      refine ⟨_, rfl, ?_⟩
      unfold Alarm.settle
      cases unshelf <;>
        refine ⟨fun q => Alarm.transition_points .., fun q => Alarm.transition_lamps .., fun q => Alarm.transition_claimLevel ..,
          ?_, rfl, rfl, fun q => getElem_set_fin .., rfl⟩ <;>
        simp only [Alarm.transition, Alarm.append_sounder, Alarm.passClaim, he] <;> exact Sounder.passClaim_defer ..
    obtain ⟨i1, i2, i3, i4, i5, i6, i7, i8⟩ := ih hn' b
    have hne (q : PointId) (hq : q ∈ ps) : q ≠ p := by rintro rfl; exact hp hq
    have hpq (q : PointId) (hq : q ∈ ps) : b.points[q] = a.points[q] := by rw [p1, if_neg (hne q hq)]
    simp only [List.foldl_cons, ← hb]
    refine ⟨fun q => ?_, fun q => ?_, fun q => ?_, ⟨i4.1.trans p4.1, i4.2.trans p4.2⟩, ?_, ?_, fun q => ?_, i8.trans p8⟩
    · rw [i1]
      by_cases hq : q ∈ ps
      · rw [if_pos hq, if_pos (List.mem_cons_of_mem _ hq), hpq q hq]
      · rw [if_neg hq, p1]
        by_cases hqp : q = p
        · subst hqp; simp
        · simp [hq, hqp, -Fin.getElem_fin]
    · rw [i2]
      by_cases hq : q ∈ ps
      · rw [if_pos hq, if_pos (List.mem_cons_of_mem _ hq), hpq q hq]
      · rw [if_neg hq, p2]
        by_cases hqp : q = p
        · subst hqp; simp
        · simp [hq, hqp, -Fin.getElem_fin]
    · rw [i3]
      by_cases hq : q ∈ ps
      · rw [if_pos hq, if_pos (List.mem_cons_of_mem _ hq), hpq q hq]
      · rw [if_neg hq, p3]
        by_cases hqp : q = p
        · subst hqp; simp
        · simp [hq, hqp, -Fin.getElem_fin]
    · rw [i5, p5, List.map_cons, Journal.appendAll_cons]
      congr 1
      apply List.map_congr_left
      intro q hq
      rw [hpq q hq]
    · rw [i6, p6]
      cases unshelf
      · rfl
      · simp only [if_true, List.filter_filter]
        apply List.filter_congr
        intro n _
        by_cases h1 : n.point = p <;> by_cases h2 : n.point ∈ ps <;> simp [h1, h2]
    · rw [i7, p7]
      by_cases hqp : q = p
      · subst hqp; simp
      · simp [hqp, -Fin.getElem_fin]

theorem disabledBy_iff (old new : Configuration) (p : PointId) : disabledBy old new p = true ↔ Disables old new p := by
  simp [disabledBy, Disables, -Fin.getElem_fin]

theorem resetBy_iff (old new : Configuration) (p : PointId) : resetBy old new p = true ↔
    new.points[p].enabled = true ∧ (old.points[p].enabled = false ∨ old.points[p].source ≠ new.points[p].source ∨
      old.points[p].sequence ≠ new.points[p].sequence) := by
  simp [resetBy, or_assoc, -Fin.getElem_fin]

/-- The points a commit resets. -/
def resetList (old new : Configuration) (a : Alarm) : List PointId := allPoints.filter fun p => decide (Resets old new a p)

/-- The alarms once the claims of the kept points have moved and steps 1 and 2 are carried out. -/
def Alarm.settled (e : Env) (old : Configuration) (a : Alarm) : Alarm :=
  (resetList old e.config a).foldl (Alarm.applyReset e)
    ((allPoints.filter (disabledBy old e.config)).foldl (Alarm.applyDisable e)
      (allPoints.foldl (fun a p => (a.passClaim e p).applyChatter old e.config p) a))

theorem Alarm.settled_settled {e : Env} (he : e.defer = true) (old : Configuration) (a : Alarm) :
    Alarm.Settled e old a (a.settled e old) := by
  have hnd : allPoints.Nodup := List.nodup_finRange 96
  have hall (p : PointId) : p ∈ allPoints := List.mem_finRange p
  unfold Alarm.settled
  obtain ⟨r1, r2, r3⟩ := Alarm.foldl_reclaimed he old allPoints a
  generalize allPoints.foldl (fun a p => (a.passClaim e p).applyChatter old e.config p) a = a0 at *
  have hd (q : PointId) : q ∈ allPoints.filter (disabledBy old e.config) ↔ Disables old e.config q := by
    rw [List.mem_filter, disabledBy_iff]; simp [hall]
  have hr (q : PointId) : q ∈ resetList old e.config a ↔ Resets old e.config a q := by
    unfold resetList
    rw [List.mem_filter, decide_eq_true_iff]; simp only [hall, true_and]
  have hdr (q : PointId) : Disables old e.config q → ¬Resets old e.config a q := by
    rintro ⟨-, h1⟩ ⟨h2, -⟩; rw [h1] at h2; cases h2
  have hcase (q : PointId) : (Disables old e.config q = True ∧ Resets old e.config a q = False) ∨
      (Disables old e.config q = False ∧ Resets old e.config a q = True) ∨
      (Disables old e.config q = False ∧ Resets old e.config a q = False) := by
    by_cases h1 : Disables old e.config q
    · exact .inl ⟨eq_true h1, eq_false (hdr q h1)⟩
    · by_cases h2 : Resets old e.config a q
      · exact .inr (.inl ⟨eq_false h1, eq_true h2⟩)
      · exact .inr (.inr ⟨eq_false h1, eq_false h2⟩)
  obtain ⟨d1, d2, d3, d4, d5, d6, d7, d8⟩ := Alarm.foldl_settle he true .disabled
    (allPoints.filter (disabledBy old e.config)) (hnd.filter _) a0
  rw [← Alarm.applyDisable_eq] at d1 d2 d3 d4 d5 d6 d7 d8
  generalize (allPoints.filter (disabledBy old e.config)).foldl (Alarm.applyDisable e) a0 = a1 at *
  obtain ⟨s1, s2, s3, s4, s5, s6, s7, s8⟩ := Alarm.foldl_settle he false .idle
    (resetList old e.config a) (hnd.filter _) a1
  rw [← Alarm.applyReset_eq] at s1 s2 s3 s4 s5 s6 s7 s8
  generalize (resetList old e.config a).foldl (Alarm.applyReset e) a1 = b at *
  simp only [hd, r1.points] at d1 d2 d3 d7
  simp only [hr, d1] at s1 s2 s3 s7
  have hb (q : PointId) : b.points[q] =
      if Disables old e.config q then { a.points[q] with state := .disabled, mark := false, hushed := false, reminder := none }
      else if Resets old e.config a q then { a.points[q] with state := .idle, mark := false, hushed := false, reminder := none }
      else a.points[q] := by
    rw [s1]
    rcases hcase q with ⟨h1, h2⟩ | ⟨h1, h2⟩ | ⟨h1, h2⟩ <;> simp only [h1, h2, if_true, if_false] <;> rfl
  refine ⟨hb, fun q => ?_, fun q => ?_, ⟨?_, ?_⟩, ?_, ?_, fun q => ?_, s8.trans (d8.trans r1.groups)⟩
  · rw [s2, d2, r1.lamps]
    rcases hcase q with ⟨h1, h2⟩ | ⟨h1, h2⟩ | ⟨h1, h2⟩ <;>
      simp only [h1, h2, if_true, if_false, or_true, or_false] <;> rfl
  · rw [s3, d3, r2, hb, if_pos (hall q)]
    rcases hcase q with ⟨h1, h2⟩ | ⟨h1, h2⟩ | ⟨h1, h2⟩ <;> simp only [h1, h2, if_true, if_false] <;> rfl
  · exact s4.1.trans (d4.1.trans r1.channels.1)
  · exact s4.2.trans (d4.2.trans r1.channels.2)
  · rw [s5, d5, r1.journal, ← Journal.appendAll_append, List.map_append]
    have hdl : (allPoints.filter fun p => decide (Disables old e.config p)) = allPoints.filter (disabledBy old e.config) := by
      apply List.filter_congr
      intro p _
      rw [Bool.eq_iff_iff, decide_eq_true_iff, disabledBy_iff]
    rw [hdl]
    change _ = a.journal.appendAll (_ ++ (resetList old e.config a).map _)
    congr 2
    · apply List.map_congr_left
      intro q hq
      rw [hb, if_pos ((hd q).mp hq), r1.points]; rfl
    · apply List.map_congr_left
      intro q hq
      have h2 := (hr q).mp hq
      have h1 : ¬Disables old e.config q := fun h => hdr q h h2
      rw [hb, if_neg h1, if_pos h2, d1, if_neg h1]; rfl
  · rw [s6, d6, r1.shelf]
    simp only [if_true, Bool.false_eq_true, if_false, hd]
  · rw [s7, d7, r3]
    rcases hcase q with ⟨h1, h2⟩ | ⟨h1, h2⟩ | ⟨h1, h2⟩ <;>
      simp only [h1, h2, hall q, if_true, if_false, or_true, true_or, false_or, true_and]

/-! ## Marks and group records (R58) -/

theorem membershipChanged_iff (old new : Configuration) (g : GroupId) :
    membershipChanged old new g = true ↔ Regrouped old new g := by
  unfold membershipChanged Regrouped
  simp only [List.any_eq_true, bne_iff_ne, ne_eq, decide_eq_decide, allPoints, List.mem_finRange, true_and]

theorem markLostBy_iff (old new : Configuration) (p : PointId) : markLostBy old new p = true ↔
    old.points[p].group ≠ new.points[p].group ∨ ∃ g, new.points[p].group = some g ∧ Regrouped old new g := by
  unfold markLostBy
  rw [Bool.or_eq_true, decide_eq_true_iff]
  apply or_congr_right
  cases new.points[p].group with
  | none => simp
  | some g => simp [membershipChanged_iff]

/-- Marks lost one after the other, with everything that does. -/
theorem Alarm.foldl_loseMark (ps : List PointId) (a : Alarm) :
    let b := ps.foldl Alarm.loseMark a
    (∀ q : PointId, b.points[q] = if q ∈ ps then { a.points[q] with mark := false } else a.points[q]) ∧
    (∀ q : PointId, b.lamps[q] = if q ∈ ps then b.points[q].pattern else a.lamps[q]) ∧
    b = { a with points := b.points, lamps := b.lamps } := by
  induction ps generalizing a with
  | nil => exact ⟨fun _ => rfl, fun _ => rfl, rfl⟩
  | cons p ps ih =>
    obtain ⟨i1, i2, i3⟩ := ih (a.loseMark p)
    rw [List.foldl_cons]
    have hp (q : PointId) : (a.loseMark p).points[q] = if q = p then { a.points[p] with mark := false } else a.points[q] :=
      Alarm.setPoint_points ..
    have hl (q : PointId) : (a.loseMark p).lamps[q] =
        if q = p then ({ a.points[p] with mark := false } : Point).pattern else a.lamps[q] := Alarm.setPoint_lamps ..
    have hq (q : PointId) : (ps.foldl Alarm.loseMark (a.loseMark p)).points[q] =
        if q ∈ p :: ps then { a.points[q] with mark := false } else a.points[q] := by
      rw [i1, hp]
      by_cases h1 : q = p
      · subst h1; by_cases h2 : q ∈ ps <;> simp [h2, -Fin.getElem_fin]
      · simp [h1, -Fin.getElem_fin]
    refine ⟨hq, fun q => ?_, i3.trans rfl⟩
    rw [i2, hl]
    by_cases h2 : q ∈ ps
    · rw [if_pos h2, if_pos (List.mem_cons_of_mem _ h2)]
    · rw [if_neg h2]
      by_cases h1 : q = p
      · subst h1; rw [if_pos rfl, if_pos List.mem_cons_self, hq, if_pos List.mem_cons_self]
      · rw [if_neg h1, if_neg (by simp [h1, h2])]

/-- Group records examined one after the other, with everything that does. -/
theorem Alarm.foldl_recompute (old new : Configuration) (gs : List GroupId) (hn : gs.Nodup) (a : Alarm) :
    let b := gs.foldl (Alarm.recomputeGroup old new) a
    (∀ g : GroupId, b.groups[g] = if g ∈ gs then (a.recomputeGroup old new g).groups[g] else a.groups[g]) ∧
    b = { a with groups := b.groups } := by
  induction gs generalizing a with
  | nil => exact ⟨fun _ => rfl, rfl⟩
  | cons h gs ih =>
    obtain ⟨hh, hn'⟩ := List.nodup_cons.mp hn
    obtain ⟨i1, i2⟩ := ih hn' (a.recomputeGroup old new h)
    rw [List.foldl_cons]
    refine ⟨fun g => ?_, i2.trans rfl⟩
    have hne (hg : g ≠ h) : (a.recomputeGroup old new h).groups[g] = a.groups[g] :=
      (getElem_set_fin ..).trans (if_neg hg)
    rw [i1]
    by_cases hg : g ∈ gs
    · have hgh : g ≠ h := by rintro rfl; exact hh hg
      have hself (x : Alarm) : (x.recomputeGroup old new g).groups[g] =
          (let r := { x.groups[g] with members := (new.membersOf g).length }
          if x.groupActive new g = false then { r with armed := true, first := none }
          else if membershipChanged old new g then { r with armed := false, first := none }
          else r) := (getElem_set_fin ..).trans (if_pos rfl)
      rw [if_pos hg, if_pos (List.mem_cons_of_mem _ hg), hself, hself, hne hgh]
      rfl
    · rw [if_neg hg]
      by_cases hgh : g = h
      · subst hgh; rw [if_pos List.mem_cons_self]
      · rw [hne hgh, if_neg (by simp [hgh, hg])]

/-- The alarms once marks and group records are settled. -/
def Alarm.recomputed (old new : Configuration) (a : Alarm) : Alarm :=
  allGroups.foldl (Alarm.recomputeGroup old new) ((allPoints.filter (markLostBy old new)).foldl Alarm.loseMark a)

theorem Alarm.recomputed_recomputed (old new : Configuration) (a : Alarm) :
    Alarm.Recomputed old new a (a.recomputed old new) := by
  unfold Alarm.recomputed
  obtain ⟨m1, m2, m3⟩ := Alarm.foldl_loseMark (allPoints.filter (markLostBy old new)) a
  generalize (allPoints.filter (markLostBy old new)).foldl Alarm.loseMark a = a1 at *
  obtain ⟨g1, g2⟩ := Alarm.foldl_recompute old new allGroups (List.nodup_finRange 8) a1
  generalize allGroups.foldl (Alarm.recomputeGroup old new) a1 = b at *
  have hm (q : PointId) : q ∈ allPoints.filter (markLostBy old new) ↔
      (old.points[q].group ≠ new.points[q].group ∨ ∃ g, new.points[q].group = some g ∧ Regrouped old new g) := by
    rw [List.mem_filter, markLostBy_iff]
    simp [allPoints, -Fin.getElem_fin]
  have hbp : b.points = a1.points := by rw [g2]
  have hbl : b.lamps = a1.lamps := by rw [g2]
  have hact (g : GroupId) : a1.groupActive new g = a.groupActive new g := by
    apply Alarm.groupActive_congr
    intro q _
    rw [m1]
    split <;> rfl
  refine ⟨fun q => ?_, fun q => ?_, fun g => ?_, by rw [g2, m3], by rw [g2, m3], by rw [g2, m3], by rw [g2, m3]⟩
  · rw [hbp, m1]; simp only [hm]
  · rw [hbl, hbp, m2]; simp only [hm]
  · rw [g1, if_pos (show g ∈ allGroups from List.mem_finRange g)]
    have hself : (a1.recomputeGroup old new g).groups[g] =
        (let r := { a1.groups[g] with members := (new.membersOf g).length }
        if a1.groupActive new g = false then { r with armed := true, first := none }
        else if membershipChanged old new g then { r with armed := false, first := none }
        else r) := (getElem_set_fin ..).trans (if_pos rfl)
    have hg : a1.groups = a.groups := by rw [m3]
    have hc : (new.membersOf g).length = allPoints.countP fun p => new.points[p].group = some g :=
      List.countP_eq_length_filter.symm
    rw [hself, hact, hg, hc]
    simp only [membershipChanged_iff]

/-! ## Reminders (R27) -/

theorem Alarm.applyReminder_points (e : Env) (old : Configuration) (p q : PointId) (a : Alarm) :
    (a.applyReminder e old p).points[q] = if q = p then { a.points[p] with
      reminder := reminderApplied a.journal.elapsed old.points[p] e.config.points[p] a.points[p] } else a.points[q] := by
  have hsame (h : reminderApplied a.journal.elapsed old.points[p] e.config.points[p] a.points[p] = a.points[p].reminder) :
      a.points[q] = if q = p then { a.points[p] with
        reminder := reminderApplied a.journal.elapsed old.points[p] e.config.points[p] a.points[p] } else a.points[q] := by
    split
    · next hq => subst hq; rw [h]
    · rfl
  unfold Alarm.applyReminder
  simp only
  by_cases h1 : old.points[p].reminderMinutes = e.config.points[p].reminderMinutes
  · rw [if_pos h1]
    exact hsame (if_pos h1)
  · rw [if_neg h1]
    cases hr : a.points[p].reminder with
    | some d =>
      simp only [Alarm.setPoint_points]
      have hc : reminderApplied a.journal.elapsed old.points[p] e.config.points[p] a.points[p] =
          if e.config.points[p].reminderMinutes = 0 then none
          else some (clockAfter a.journal.elapsed (e.config.points[p].reminderMinutes * 60000)) := by
        unfold reminderApplied
        rw [if_neg h1]
        exact if_pos (.inl (by rw [hr]; simp))
      rw [hc]
    | none =>
      by_cases h2 : old.points[p].reminderMinutes = 0 ∧ a.points[p].state = .standing
      · rw [if_pos h2, Alarm.setPoint_points]
        have hc : reminderApplied a.journal.elapsed old.points[p] e.config.points[p] a.points[p] = a.reminderStart e p := by
          unfold reminderApplied Alarm.reminderStart
          rw [if_neg h1]
          simp only [hr, h2, ne_eq, not_true_eq_false, false_or, true_and]
          by_cases h3 : e.config.points[p].sequence = .notice
          · simp [h3, -Fin.getElem_fin]
          · by_cases h4 : e.config.points[p].reminderMinutes = 0
            · simp [h3, h4, -Fin.getElem_fin]
            · simp [h3, h4, Nat.pos_of_ne_zero h4, -Fin.getElem_fin]
        rw [hc]
      · rw [if_neg h2]
        refine hsame ?_
        rw [reminderApplied, if_neg h1, if_neg, hr]
        rintro (h | h)
        · exact h hr
        · exact h2 ⟨h.1, h.2.1⟩

theorem Alarm.applyReminder_frame (e : Env) (old : Configuration) (p : PointId) (a : Alarm) :
    a.applyReminder e old p =
      { a with points := (a.applyReminder e old p).points, lamps := (a.applyReminder e old p).lamps } := by
  unfold Alarm.applyReminder
  simp only
  split
  · rfl
  · split
    · rfl
    · split <;> rfl

/-- Reminders brought to their new settings, with everything that does. -/
theorem Alarm.foldl_applyReminder (e : Env) (old : Configuration) (ps : List PointId) (hn : ps.Nodup) (a : Alarm) :
    let b := ps.foldl (Alarm.applyReminder e old) a
    (∀ q : PointId, b.points[q] = if q ∈ ps then { a.points[q] with
      reminder := reminderApplied a.journal.elapsed old.points[q] e.config.points[q] a.points[q] } else a.points[q]) ∧
    b = { a with points := b.points, lamps := b.lamps } := by
  induction ps generalizing a with
  | nil => exact ⟨fun _ => rfl, rfl⟩
  | cons p ps ih =>
    obtain ⟨hp, hn'⟩ := List.nodup_cons.mp hn
    have hf := Alarm.applyReminder_frame e old p a
    obtain ⟨i1, i2⟩ := ih hn' (a.applyReminder e old p)
    have hj : (a.applyReminder e old p).journal = a.journal := by rw [hf]
    rw [List.foldl_cons]
    refine ⟨fun q => ?_, ?_⟩
    · rw [i1, Alarm.applyReminder_points, hj]
      by_cases hq : q = p
      · subst hq; simp [hp, -Fin.getElem_fin]
      · simp [hq, -Fin.getElem_fin]
    · rw [i2, hf]

/-! ## The whole apply -/

/-- A commit apply on the alarms, step by step: claims, disables and resets; marks and groups; releases; the entry passes
over the reset points that are ABNORMAL; reminders (R27, R57 to R60, R76). -/
theorem Alarm.apply_steps {e : Env} (he : e.defer = true) (old : Configuration) (a : Alarm)
    (hs : ∀ p : PointId, e.config.points[p].suppressor ≠ some p) :
    let a2 := a.settled e old
    let a3 := a2.recomputed old e.config
    let a4 := a3.release e (a3.freed e.config)
    let a5 := a4.passes e .commit (allPoints.filter fun p =>
      decide (Resets old e.config a p ∧ a4.points[p].abnormal = true))
    Alarm.Settled e old a a2 ∧ Alarm.Recomputed old e.config a2 a3 ∧
    Chain (Alarm.Released e) (a3.freed e.config) a3 a4 ∧
    Chain (fun p => Alarm.Begun e p .commit) (e.config.passOrder (allPoints.filter fun p =>
      decide (Resets old e.config a p ∧ a4.points[p].abnormal = true))) a4 a5 ∧
    (∀ p : PointId, (a.apply e old).points[p] = { a5.points[p] with
      reminder := reminderApplied a5.journal.elapsed old.points[p] e.config.points[p] a5.points[p] }) ∧
    a.apply e old = { a5 with points := (a.apply e old).points, lamps := (a.apply e old).lamps } := by
  intro a2 a3 a4 a5
  have hreset : (allPoints.filter fun p => resetBy old e.config p &&
      decide (((allPoints.filter (disabledBy old e.config)).foldl (Alarm.applyDisable e)
        (allPoints.foldl (fun a p => (a.passClaim e p).applyChatter old e.config p) a)).points[p].state ≠ .shelved)) =
      resetList old e.config a := by
    unfold resetList
    obtain ⟨r1, -, -⟩ := Alarm.foldl_reclaimed he old allPoints a
    generalize allPoints.foldl (fun a p => (a.passClaim e p).applyChatter old e.config p) a = a0 at *
    obtain ⟨d1, -⟩ := Alarm.foldl_settle he true .disabled (allPoints.filter (disabledBy old e.config))
      ((List.nodup_finRange 96).filter _) a0
    rw [← Alarm.applyDisable_eq] at d1
    apply List.filter_congr
    intro p _
    rw [Bool.eq_iff_iff, Bool.and_eq_true, decide_eq_true_iff, decide_eq_true_iff, resetBy_iff, d1, r1.points]
    constructor
    · rintro ⟨⟨h1, h2⟩, h3⟩
      refine ⟨h1, h2, ?_⟩
      rwa [if_neg] at h3
      rw [List.mem_filter, disabledBy_iff]
      rintro ⟨-, -, h⟩
      rw [h1] at h; cases h
    · rintro ⟨h1, h2, h3⟩
      refine ⟨⟨h1, h2⟩, ?_⟩
      rw [if_neg]
      · exact h3
      · rw [List.mem_filter, disabledBy_iff]
        rintro ⟨-, -, h⟩
        rw [h1] at h; cases h
  have hpass : (resetList old e.config a).filter (fun p => a4.points[p].abnormal) =
      allPoints.filter fun p => decide (Resets old e.config a p ∧ a4.points[p].abnormal = true) := by
    unfold resetList
    rw [List.filter_filter]
    apply List.filter_congr
    intro p _
    rw [Bool.eq_iff_iff, Bool.and_eq_true, decide_eq_true_iff, decide_eq_true_iff, and_comm]
  have happly : a.apply e old = allPoints.foldl (Alarm.applyReminder e old) a5 := by
    have h5 : a5 = a4.passes e .commit ((resetList old e.config a).filter fun p => a4.points[p].abnormal) := by
      rw [hpass]
    rw [h5]
    unfold Alarm.apply
    simp only [hreset]
    rfl
  obtain ⟨f1, f2⟩ := Alarm.foldl_applyReminder e old allPoints (List.nodup_finRange 96) a5
  rw [happly]
  refine ⟨Alarm.settled_settled he old a, Alarm.recomputed_recomputed .., Alarm.release_chain .., Alarm.passes_chain _ _ _ _ hs,
    fun p => ?_, f2⟩
  rw [f1, if_pos (show p ∈ allPoints from List.mem_finRange p)]

/-! ## Changed sources (R44) -/

/-- Conditions brought into line with changed sources: conditions and their copies set, lamps with them, nothing delivered
(R44). -/
structure Part.Resourced (old : Configuration) (ps : List PointId) (s t : Part) : Prop where
  frame : t = { s with
    conditions := t.conditions, alarm := { s.alarm with points := t.alarm.points, lamps := t.alarm.lamps } }
  changed : ∀ p ∈ ps, s.active.points[p].source ≠ old.points[p].source →
    t.conditions[p] = { s.conditions[p].keepRead s.active.points[p].source with
      abnormal := s.reading p (s.conditions[p].keepRead s.active.points[p].source) } ∧
    t.alarm.points[p] = { s.alarm.points[p] with abnormal := t.conditions[p].abnormal } ∧
    t.alarm.lamps[p] = s.alarm.points[p].pattern
  kept : ∀ p : PointId, p ∉ ps ∨ s.active.points[p].source = old.points[p].source →
    t.conditions[p] = s.conditions[p] ∧ t.alarm.points[p] = s.alarm.points[p] ∧ t.alarm.lamps[p] = s.alarm.lamps[p]

theorem Point.pattern_abnormal (d : Point) (v : Bool) : ({ d with abnormal := v } : Point).pattern = d.pattern := rfl

theorem Part.applySource_resourced (old : Configuration) (p : PointId) (s : Part) :
    Part.Resourced old [p] s (s.applySource old p) := by
  unfold Part.applySource
  by_cases h : s.active.points[p].source = old.points[p].source
  · rw [if_pos h]
    refine ⟨rfl, fun q hq hc => ?_, fun q _ => ⟨rfl, rfl, rfl⟩⟩
    rw [List.mem_singleton.mp hq] at hc
    exact absurd h hc
  · rw [if_neg h]
    simp only [Part.setConditionRecord_conditionOf, Part.setConditionRecord_conditions, if_true]
    refine ⟨rfl, fun q hq _ => ?_, fun q hq => ?_⟩
    · have hqp := List.mem_singleton.mp hq
      subst hqp
      refine ⟨?_, ?_, ?_⟩
      · exact (Part.setConditionRecord_conditions ..).trans (if_pos rfl)
      · refine (Alarm.setPoint_points ..).trans ((if_pos rfl).trans ?_)
        have : ((s.setConditionRecord q (s.conditions[q].keepRead s.active.points[q].source)).setConditionRecord q
            { s.conditions[q].keepRead s.active.points[q].source with
              abnormal := s.reading q (s.conditions[q].keepRead s.active.points[q].source) }).conditions[q] =
            { s.conditions[q].keepRead s.active.points[q].source with
              abnormal := s.reading q (s.conditions[q].keepRead s.active.points[q].source) } :=
          (Part.setConditionRecord_conditions ..).trans (if_pos rfl)
        simp only [this]
        rfl
      · exact (Alarm.setPoint_lamps ..).trans (if_pos rfl)
    · have hqp : q ≠ p := by
        rintro rfl
        rcases hq with hq | hq
        · exact hq (List.mem_singleton.mpr rfl)
        · exact h hq
      refine ⟨?_, ?_, ?_⟩
      · refine (Part.setConditionRecord_conditions ..).trans ((if_neg hqp).trans ?_)
        exact (Part.setConditionRecord_conditions ..).trans (if_neg hqp)
      · exact (Alarm.setPoint_points ..).trans (if_neg hqp)
      · exact (Alarm.setPoint_lamps ..).trans (if_neg hqp)

theorem Part.foldl_applySource (old : Configuration) (ps : List PointId) (hn : ps.Nodup) (s : Part) :
    Part.Resourced old ps s (ps.foldl (Part.applySource old) s) := by
  induction ps generalizing s with
  | nil => exact ⟨rfl, fun _ h => absurd h List.not_mem_nil, fun _ _ => ⟨rfl, rfl, rfl⟩⟩
  | cons p ps ih =>
    obtain ⟨hp, hn'⟩ := List.nodup_cons.mp hn
    have h1 := Part.applySource_resourced old p s
    rw [List.foldl_cons]
    have h2 := ih hn' (s.applySource old p)
    generalize s.applySource old p = m at *
    generalize ps.foldl (Part.applySource old) m = t at *
    have hact : m.active = s.active := by rw [h1.frame]
    have hread (q : PointId) (c : Condition) : m.reading q c = s.reading q c := by
      have hl (l : LinkId) : m.link l = s.link l := by rw [h1.frame]; cases l <;> rfl
      have hls : m.lines = s.lines := by rw [h1.frame]
      unfold Part.reading
      simp only [hl, hact, hls]
    have hpk := h2.kept p (.inl hp)
    refine ⟨by rw [h2.frame, h1.frame], fun q hq hc => ?_, fun q hq => ?_⟩
    · by_cases hqp : q = p
      · subst hqp
        obtain ⟨a1, a2, a3⟩ := h1.changed q (List.mem_singleton.mpr rfl) hc
        rw [hpk.1, hpk.2.1, hpk.2.2]
        exact ⟨a1, a2, a3⟩
      · have hm := (List.mem_cons.mp hq).resolve_left hqp
        obtain ⟨k1, k2, k3⟩ := h1.kept q (.inl (by simpa using hqp))
        obtain ⟨a1, a2, a3⟩ := h2.changed q hm (by rw [hact]; exact hc)
        rw [hact, hread, k1] at a1
        rw [k2] at a2 a3
        exact ⟨a1, a2, a3⟩
    · have h1q : q ∉ [p] ∨ s.active.points[q].source = old.points[q].source := by
        rcases hq with hq | hq
        · exact .inl fun h => hq (List.mem_cons.mpr (.inl (List.mem_singleton.mp h)))
        · exact .inr hq
      have h2q : q ∉ ps ∨ m.active.points[q].source = old.points[q].source := by
        rcases hq with hq | hq
        · exact .inl fun h => hq (List.mem_cons_of_mem _ h)
        · exact .inr (by rw [hact]; exact hq)
      obtain ⟨k1, k2, k3⟩ := h1.kept q h1q
      obtain ⟨m1, m2, m3⟩ := h2.kept q h2q
      exact ⟨m1.trans k1, m2.trans k2, m3.trans k3⟩

/-! ## The apply as one operation (R158) -/

/-- The part with the new configuration active, its COMMIT record appended, and the blocks' copies taken (R158). -/
def Part.copied (new : Configuration) (holder : LinkId) (s : Part) : Part :=
  let now := s.alarm.journal.elapsed
  let s1 := { s with active := new, manager := { s.manager with mode := .running } }.append
    { kind := .commit, origin := .link holder, detail := some (s.manager.sessionId * 256 + s.active.countPointsChanged new) }
  { s1 with
    linkA := s1.linkA.applyRecord now new.linkA
    linkB := s1.linkB.applyRecord now new.linkB
    lines := tabulate fun n => s1.lines[n].applyRecord new.lines[n]
    alarm := { s1.alarm with sounder := { s1.alarm.sounder with tones := new.tones, dual := new.global.dual } } }

/-- What follows the conditions in a commit apply: the alarms, the one evaluation, the TEST lock and the relays. -/
def Part.applied (old new : Configuration) (now : Nat) (s3 : Part) : Part :=
  let s4 := { s3 with alarm := s3.alarm.apply ⟨new, s3.panel.testSet.active, true, .part⟩ old }
  let s5 := { s4 with
    alarm := { s4.alarm with
      sounder := s4.alarm.sounder.evaluate s4.panel.testSet.active now (changedLevels old.tones new.tones) } }
  s5.applyLock.settleRelays

/-- A commit apply in its three parts; `Part.foldl_applySource` says what the middle one does. -/
theorem Part.applyCommit_eq (new : Configuration) (holder : LinkId) (s : Part) :
    s.applyCommit new holder = Part.applied s.active new s.alarm.journal.elapsed
      (allPoints.foldl (Part.applySource s.active) (s.copied new holder)) := by
  unfold Part.applied Part.copied Part.applyCommit
  with_reducible rfl

/-- Leaving the test set for a locked TEST key keeps the conditions. -/
theorem Part.applyLock_conditions (s : Part) : s.applyLock.conditions = s.conditions := by
  unfold Part.applyLock Part.changeTestSet
  split
  · dsimp only; split <;> rfl
  · rfl

theorem Part.applied_conditions (old new : Configuration) (now : Nat) (s3 : Part) :
    (Part.applied old new now s3).conditions = s3.conditions := Part.applyLock_conditions _

/-- The conditions a commit apply leaves are those its changed sources give; `Part.foldl_applySource` says them. -/
theorem Part.applyCommit_conditions (new : Configuration) (holder : LinkId) (s : Part) :
    (s.applyCommit new holder).conditions =
      (allPoints.foldl (Part.applySource s.active) (s.copied new holder)).conditions := by
  rw [Part.applyCommit_eq, Part.applied_conditions]

/-- No point is its own suppressor in a configuration that passes C2 (R155). -/
theorem Configuration.c2_self {c : Configuration} (h : c.c2 = none) (p : PointId) : c.points[p].suppressor ≠ some p := by
  intro hp
  have := List.find?_eq_none.mp h p (List.mem_finRange p)
  simp [Configuration.badSuppressor, hp, -Fin.getElem_fin] at this

end Sys2Proof.Machine
end

