-- ==== Sys2Proof/Laws/Idle.lean ====
section
/-! SUPPORT. What is due, said once: `Part.mem_dueCommands` names the command and the condition of each thing that the
step takes on an empty queue. -/

namespace Sys2Proof.Machine

theorem mem_whenDue (due : Bool) (c d : Instr) : c ∈ whenDue due d ↔ c = d ∧ due = true := by
  unfold whenDue; cases due <;> simp

theorem LinkId.exists_iff {P : LinkId → Prop} : (∃ l, P l) ↔ P .a ∨ P .b :=
  ⟨by rintro ⟨l, h⟩; cases l <;> simp_all, by rintro (h | h) <;> exact ⟨_, h⟩⟩

theorem ChanId.exists_iff {P : ChanId → Prop} : (∃ c, P c) ↔ P .ch0 ∨ P .ch1 :=
  ⟨by rintro ⟨c, h⟩; cases c <;> simp_all, by rintro (h | h) <;> exact ⟨_, h⟩⟩

theorem KeyId.exists_iff {P : KeyId → Prop} : (∃ k, P k) ↔ P .ack ∨ P .silence ∨ P .reset ∨ P .test :=
  ⟨by rintro ⟨k, h⟩; cases k <;> simp_all, by rintro (h | h | h | h) <;> exact ⟨_, h⟩⟩

theorem Part.mem_dueOnLink (s : Part) (l : LinkId) (c : Instr) : c ∈ s.dueOnLink l ↔
    (∃ f, (s.link l).nextFrame = some f ∧ c = frameCommand l f) ∨
    (c = .supervisionExpiry l ∧ s.silenceDue l = true) ∨
    (c = .messageTestExpiry l ∧ Timer.due s.alarm.journal.elapsed (s.panel.testTimer l) = true) := by
  unfold Part.dueOnLink
  cases (s.link l).nextFrame <;> simp [mem_whenDue]

theorem Alarm.shelfDue_isSome (a : Alarm) : a.shelfDue.isSome = true ↔
    ∃ n rest, a.shelf = n :: rest ∧ timeLeft a.journal.elapsed n.expiry = 0 := by
  unfold Alarm.shelfDue
  cases a.shelf with
  | nil => simp
  | cons n rest => by_cases h : timeLeft a.journal.elapsed n.expiry = 0 <;> simp [h]

/-- The commands that are due, each with its condition (R127, R171; log 1). -/
theorem Part.mem_dueCommands (s : Part) (c : Instr) : c ∈ s.dueCommands ↔
    (∃ l f, (s.link l).nextFrame = some f ∧ c = frameCommand l f) ∨
    (∃ l, c = .supervisionExpiry l ∧ s.silenceDue l = true) ∨
    (∃ l, c = .messageTestExpiry l ∧ Timer.due s.alarm.journal.elapsed (s.panel.testTimer l) = true) ∨
    (∃ k, c = .keySample k (s.keyLine k).level ∧ s.sampleDue k = true) ∨
    (∃ k, c = .keySteadyExpiry k ∧ Timer.due s.alarm.journal.elapsed (s.panel.key k).steady = true) ∨
    (∃ h, c = .cadencePhaseExpiry h ∧ Timer.due s.alarm.journal.elapsed (s.channel h).cadence = true) ∨
    (∃ h, c = .escalationStep h ∧ Timer.due s.alarm.journal.elapsed (s.channel h).escalation = true) ∨
    (∃ h, c = .chirpTimerExpiry h ∧ Timer.due s.alarm.journal.elapsed (s.channel h).chirpTimer = true) ∨
    (c = .shelfExpiry ∧ s.alarm.shelfDue.isSome = true) ∨
    (c = .commitCheckCompletion ∧ Timer.due s.alarm.journal.elapsed s.manager.check = true) ∨
    (c = .lineScan s.inputs ∧ s.scanDue = true) ∨
    (c = .lampRefresh ∧ s.refreshDue = true) ∨
    (∃ p : PointId, c = .reminderExpiry p.val ∧ s.reminderDue p = true) ∨
    (∃ p : PointId, c = .chatterWindowExpiry p.val ∧
      Timer.due s.alarm.journal.elapsed s.alarm.chatter[p].window = true) := by
  simp only [Part.dueCommands, List.mem_append, Part.mem_dueOnLink, Part.dueOnKey, Part.dueOnChannel, Part.dueOnPoint,
    mem_whenDue, List.mem_flatMap, allPoints, List.mem_finRange, true_and, LinkId.exists_iff, ChanId.exists_iff,
    KeyId.exists_iff, exists_or]
  exact Iff.of_eq (by ac_rfl)

/-- With nothing due the step chooses nothing; with something due it takes one of them (log 7). -/
theorem Part.nextDue_none {s : Part} (h : s.dueCommands = []) : s.nextDue = none := by simp [Part.nextDue, h]

theorem Part.nextDue_some {s : Part} (h : s.dueCommands ≠ []) : ∃ c ∈ s.dueCommands, s.nextDue = some c := by
  have hlt := Nat.mod_lt (Config.dueChoice s.free) (List.length_pos_iff.mpr h)
  exact ⟨_, List.getElem_mem hlt, by simp [Part.nextDue, hlt]⟩

end Sys2Proof.Machine
end

