-- ==== Sys2Proof/Laws/PerInstr.lean ====
section
/-! SUPPORT. Statements made constructor by constructor: an ill-formed command is one that names a point the part does not
have. -/

namespace Sys2Proof.Laws.Operands

/-- Only a timer of a point that does not exist is ill formed (00_scope section 7). -/
def Statement (i : Instr) : Prop :=
  i.wellFormed = false → ∃ p, 96 ≤ p ∧ (i = .reminderExpiry p ∨ i = .chatterWindowExpiry p)

theorem hello (l : LinkId) : Statement (.hello l) := nofun

theorem ping (l : LinkId) : Statement (.ping l) := nofun

theorem readLinkStatus (l : LinkId) : Statement (.readLinkStatus l) := nofun

theorem readPoint (l : LinkId) : Statement (.readPoint l) := nofun

theorem readSummary (l : LinkId) : Statement (.readSummary l) := nofun

theorem readLines (l : LinkId) : Statement (.readLines l) := nofun

theorem readGroups (l : LinkId) : Statement (.readGroups l) := nofun

theorem readShelf (l : LinkId) : Statement (.readShelf l) := nofun

theorem readSounders (l : LinkId) : Statement (.readSounders l) := nofun

theorem readPanel (l : LinkId) : Statement (.readPanel l) := nofun

theorem raise (l : LinkId) : Statement (.raise l) := nofun

theorem clear (l : LinkId) : Statement (.clear l) := nofun

theorem acknowledgeAll (l : LinkId) : Statement (.acknowledgeAll l) := nofun

theorem acknowledgePoint (l : LinkId) : Statement (.acknowledgePoint l) := nofun

theorem silence (l : LinkId) : Statement (.silence l) := nofun

theorem resetAll (l : LinkId) : Statement (.resetAll l) := nofun

theorem resetPoint (l : LinkId) : Statement (.resetPoint l) := nofun

theorem shelvePoint (l : LinkId) : Statement (.shelvePoint l) := nofun

theorem unshelvePoint (l : LinkId) : Statement (.unshelvePoint l) := nofun

theorem testBegin (l : LinkId) : Statement (.testBegin l) := nofun

theorem testEnd (l : LinkId) : Statement (.testEnd l) := nofun

theorem chirp (l : LinkId) : Statement (.chirp l) := nofun

theorem subscribe (l : LinkId) : Statement (.subscribe l) := nofun

theorem grantCredits (l : LinkId) : Statement (.grantCredits l) := nofun

theorem unsubscribe (l : LinkId) : Statement (.unsubscribe l) := nofun

theorem fetch (l : LinkId) : Statement (.fetch l) := nofun

theorem setClock (l : LinkId) : Statement (.setClock l) := nofun

theorem openSession (l : LinkId) : Statement (.openSession l) := nofun

theorem stagePoint (l : LinkId) : Statement (.stagePoint l) := nofun

theorem stageLine (l : LinkId) : Statement (.stageLine l) := nofun

theorem stageTone (l : LinkId) : Statement (.stageTone l) := nofun

theorem stageRelay (l : LinkId) : Statement (.stageRelay l) := nofun

theorem stageLink (l : LinkId) : Statement (.stageLink l) := nofun

theorem stageGlobal (l : LinkId) : Statement (.stageGlobal l) := nofun

theorem readStaged (l : LinkId) : Statement (.readStaged l) := nofun

theorem readActive (l : LinkId) : Statement (.readActive l) := nofun

theorem discard (l : LinkId) : Statement (.discard l) := nofun

theorem commit (l : LinkId) : Statement (.commit l) := nofun

theorem closeSession (l : LinkId) : Statement (.closeSession l) := nofun

theorem restartWarm (l : LinkId) : Statement (.restartWarm l) := nofun

theorem restartCold (l : LinkId) : Statement (.restartCold l) := nofun

theorem unknownKind (l : LinkId) : Statement (.unknownKind l) := nofun

theorem lineScan (levels : BitVec 24) : Statement (.lineScan levels) := nofun

theorem keySample (k : KeyId) (level : Wire) : Statement (.keySample k level) := nofun

theorem keySteadyExpiry (k : KeyId) : Statement (.keySteadyExpiry k) := nofun

theorem reminderExpiry (point : Nat) : Statement (.reminderExpiry point) := fun h =>
  ⟨point, Nat.not_lt.mp (of_decide_eq_false h), Or.inl rfl⟩

theorem shelfExpiry : Statement .shelfExpiry := nofun

theorem chatterWindowExpiry (point : Nat) : Statement (.chatterWindowExpiry point) := fun h =>
  ⟨point, Nat.not_lt.mp (of_decide_eq_false h), Or.inr rfl⟩

theorem cadencePhaseExpiry (c : ChanId) : Statement (.cadencePhaseExpiry c) := nofun

theorem escalationStep (c : ChanId) : Statement (.escalationStep c) := nofun

theorem chirpTimerExpiry (c : ChanId) : Statement (.chirpTimerExpiry c) := nofun

theorem messageTestExpiry (l : LinkId) : Statement (.messageTestExpiry l) := nofun

theorem lampRefresh : Statement .lampRefresh := nofun

theorem commitCheckCompletion : Statement .commitCheckCompletion := nofun

theorem receiveCharacter (l : LinkId) (c : RxChar) : Statement (.receiveCharacter l c) := nofun

theorem intraFrameGapExpiry (l : LinkId) : Statement (.intraFrameGapExpiry l) := nofun

theorem supervisionExpiry (l : LinkId) : Statement (.supervisionExpiry l) := nofun

theorem transmitComplete (l : LinkId) (straps : Straps) : Statement (.transmitComplete l straps) := nofun

theorem fullReset (straps : Straps) : Statement (.fullReset straps) := nofun

end Sys2Proof.Laws.Operands
end

