-- ==== Sys2Proof/Laws/Stage.lean ====
section
/-! SUPPORT. The fields of the Stage requests: each request checks exactly its table of fields, and the first field out of
it decides the refusal. -/

namespace Sys2Proof.Machine

/-- The fields of `r` with the check of each, by a table. -/
def FieldTable.checks (t : FieldTable) (r : List Byte) : List (Nat × Bool) :=
  t.map fun x => (field r x.1 x.2.1, x.2.2 (field r x.1 x.2.1))

theorem within_eq (lo hi v : Nat) : within lo hi v = decide (lo ≤ v ∧ v ≤ hi) := (Bool.decide_and ..).symm

theorem within_zero (hi v : Nat) : within 0 hi v = decide (v ≤ hi) := by simp [within]

theorem pitchOk_eq (v : Nat) : pitchOk v = decide (200 ≤ v ∧ v ≤ 5000 ∧ v % 10 = 0) := by
  simp [pitchOk, within, Bool.decide_and, Bool.and_assoc]

theorem pitchBOk_eq (v : Nat) : pitchBOk v = decide (v = 0 ∨ 200 ≤ v ∧ v ≤ 5000 ∧ v % 10 = 0) := by
  simp [pitchBOk, pitchOk_eq, Bool.decide_or]

theorem onTimeOk_eq (v : Nat) : onTimeOk v = decide (50 ≤ v ∧ v ≤ 5000 ∧ v % 50 = 0) := by
  simp [onTimeOk, within, Bool.decide_and, Bool.and_assoc]

theorem offTimeOk_eq (v : Nat) : offTimeOk v = decide (v ≤ 5000 ∧ v % 50 = 0) := by
  simp [offTimeOk, within, Bool.decide_and]

theorem pointFields_eq (r : List Byte) : pointFields r = pointTable.checks r := by
  have hg : (decide (field r 4 1 = 255) || within 0 7 (field r 4 1)) = decide (field r 4 1 ≤ 7 ∨ field r 4 1 = 255) := by
    rw [within_zero, Bool.decide_or, Bool.or_comm]
  have hs : (decide (field r 5 1 = 255) || within 0 95 (field r 5 1)) = decide (field r 5 1 ≤ 95 ∨ field r 5 1 = 255) := by
    rw [within_zero, Bool.decide_or, Bool.or_comm]
  have hc : (decide (field r 6 1 = 0) || within 2 15 (field r 6 1)) =
      decide (field r 6 1 = 0 ∨ 2 ≤ field r 6 1 ∧ field r 6 1 ≤ 15) := by
    rw [within_eq, Bool.decide_or]
  unfold pointFields
  rw [hg, hs, hc]
  simp only [within_eq, Nat.zero_le, true_and]
  rfl

theorem lineFields_eq (r : List Byte) : lineFields r = lineTable.checks r := by
  simp only [lineFields, within_eq, Nat.zero_le, true_and]; rfl

theorem toneFields_eq (r : List Byte) (t : ProfileId) : toneFields r t = (toneTable t).checks r := by
  cases t <;> simp only [toneFields, pitchOk_eq, pitchBOk_eq, onTimeOk_eq, offTimeOk_eq, within_eq, Nat.zero_le, true_and] <;> rfl

theorem relayFields_eq (r : List Byte) : relayFields r = relayTable.checks r := by
  simp only [relayFields, within_zero]; rfl

theorem linkFields_eq (r : List Byte) : linkFields r = linkTable.checks r := by
  simp only [linkFields, within_zero]; rfl

theorem globalFields_eq (r : List Byte) : globalFields r = globalTable.checks r := by
  simp only [globalFields, within_eq, Nat.zero_le, true_and]; rfl

/-- The first field out of its table, numbered from the record's first field on (R149, R187). -/
theorem FieldTable.firstBad_out {t : FieldTable} {r : List Byte} {i v : Nat} (h : firstOut t r i v) (n : Nat) :
    firstBad n (t.checks r) = some (n + i, v) := by
  obtain ⟨x, h1, h2, h3, h4⟩ := h
  induction t generalizing i n with
  | nil => simp at h1
  | cons y t ih =>
    unfold FieldTable.checks
    rw [List.map_cons]
    cases i with
    | zero =>
      rw [List.getElem?_cons_zero, Option.some.injEq] at h1
      subst h1
      simp [firstBad, h2, h3]
    | succ i =>
      have hy : y.2.2 (field r y.1 y.2.1) = true := h4 y (by simp)
      simp only [firstBad, hy, if_true]
      have := ih (n + 1) (by simpa using h1) (fun z hz => h4 z (by simp [hz]))
      unfold FieldTable.checks at this
      rw [this]
      congr 2
      omega

/-- A record with every field in its table has no first field out of it. -/
theorem FieldTable.firstBad_fits {t : FieldTable} {r : List Byte} (h : fits t r) (n : Nat) : firstBad n (t.checks r) = none := by
  apply firstBad_none
  intro x hx
  obtain ⟨y, hy, rfl⟩ := List.mem_map.mp hx
  exact h y hy

end Sys2Proof.Machine
end

