-- ==== Sys2Proof/Tests/Slice0.lean ====
section
/-! SUPPORT. Tests: ill-formed commands, one step of the worked sequences of the spec, and for every statement with
hypotheses a state and operands that meet them. -/

namespace Sys2Proof.Tests

set_option Elab.async false

open Sys2Proof Sys2Proof.Machine

/-! ## Small states -/

/-- The state a command leaves; none where it stops. -/
def after (c : Instr) (s : State) : Option State :=
  match exec c s with
  | .next t => some t
  | .fault _ => none
  | .refused _ => none

/-- A point with its configuration record and its dynamic record, its lamp and its claim. -/
def put (p : PointId) (c : PointConfig) (d : Point) (s : State) : State :=
  { s with
    active := { s.active with points := s.active.points.set p c }
    conditions := s.conditions.set p { s.conditions[p] with abnormal := d.abnormal }
    alarm := { s.alarm with
      points := s.alarm.points.set p d
      lamps := s.alarm.lamps.set p d.pattern
      sounder := s.alarm.sounder.passClaim false true 0 p (claimOf c d) d.entryStamp } }

/-- The newest journal record is number `n`. -/
def upTo (n : Nat) (s : State) : State :=
  { s with alarm := { s.alarm with journal := { s.alarm.journal with
      ring := [⟨n, 0, .elapsed, { kind := .startCold, origin := .part }⟩], nextSeq := n + 1 } } }

/-- The elapsed count stands at `n` milliseconds. -/
def at_ (n : Nat) (s : State) : State :=
  { s with alarm := { s.alarm with journal := { s.alarm.journal with elapsed := n } } }

/-- A frame from a controller, under tag 1. -/
def frame (k : RequestKind) (body : List Byte) : Frame := ⟨1, k.code, body, 0⟩

/-- One frame waits on Link A. -/
def asked (k : RequestKind) (body : List Byte) (s : State) : State :=
  { s with linkA := { s.linkA with waiting := [frame k body] } }

/-- One frame waits on Link B. -/
def askedB (k : RequestKind) (body : List Byte) (s : State) : State :=
  { s with linkB := { s.linkB with waiting := [frame k body] } }

/-- Link A holds session 4 with a staging configuration. -/
def holding (c : Configuration) (s : State) : State :=
  { s with manager := ⟨.running, some .a, 4, 4, some c, none, none⟩ }

/-- The last reply a link has placed. -/
def reply (l : LinkId) (s : Option State) : Option (Status × List Byte) :=
  match s with
  | none => none
  | some t => ((t.link l).replies.getLast?).map fun r => (r.answer.status, r.answer.data)

/-- State, occurrence, mark, lamp and claim of a point. -/
def shows (p : PointId) (s : Option State) : Option (PointState × Nat × Bool × Pattern × Option Level) :=
  s.map fun t => (t.alarm.points[p].state, t.alarm.points[p].occurrence, t.alarm.points[p].mark, t.alarm.lamps[p],
    t.alarm.sounder.claimLevel p)

/-- Kind, point (255 for none), cause (255 for none) and detail of the records after the first. -/
def records (s : Option State) : Option (List (List Nat)) :=
  s.map fun t => t.alarm.journal.ring.tail.map fun r =>
    [r.body.kind.code, orNone r.body.point, (r.body.cause.map Cause.code).getD 255, r.body.detail.getD 0]

/-! ## Well-formed and ill-formed commands -/

theorem test_wellFormed_point95 : (Instr.reminderExpiry 95).wellFormed = true := by decide
theorem test_illFormed_reminder : (Instr.reminderExpiry 96).wellFormed = false := by decide
theorem test_illFormed_chatter : (Instr.chatterWindowExpiry 96).wellFormed = false := by decide
theorem test_illFormed_stops : exec (.reminderExpiry 96) State.reset = .fault .noSuchPoint := rfl
theorem test_noWord : decodeTableWord 8 0x10 = none := rfl

/-! ## The table of codes and the CRC -/

theorem test_crc : crcOf [0x31, 0x32, 0x33, 0x34, 0x35, 0x36, 0x37, 0x38, 0x39] = 0x29B1 := by decide +kernel

theorem test_report_11_9 :
    (⟨303, 1000004000, .calendar, ⟨.point, .link .b, some 30, some (.alerting, .standing), some .ack, some 8, some 0⟩⟩ : Record).chars =
      [0, 0, 1, 0x2F, 0, 0, 0x3B, 0x9A, 0xD9, 0xA0, 0, 0x82, 0x1E, 2, 3, 2, 0, 8, 0, 0] := by decide +kernel

/-! ## One point (1.8, 1.9) -/

/-- Point 12 of 1.8. -/
def c12 : PointConfig :=
  { enabled := true, priority := .high, source := .line 5, group := some 1, reminderMinutes := 5 }

/-- Point 12 IDLE, its line one scan short of its on-count, the scan due, the newest record 140. -/
def s12 : State :=
  put 12 c12 { state := .idle } (upTo 140
    { State.reset with
      lines := State.reset.lines.set 5 { run := 2, config := ⟨.activeLow, 3, 4⟩ }
      scanTimer := some 0 })

theorem test_1_8_step1 : shows 12 (after (.lineScan 0xFFFFDF) s12) = some (.alerting, 1, true, .double, some .high) ∧
    records (after (.lineScan 0xFFFFDF) s12) = some [[0, 12, 0, 1]] := by decide +kernel

/-- Point 12 in a state of its occurrence 1. -/
def s12in (d : Point) : State := put 12 c12 { d with occurrence := 1, mark := true } (upTo 141 State.reset)

theorem test_1_8_silence : shows 12 (after (.silence .a) (asked .silence [] (s12in { state := .alerting, abnormal := true }))) =
    some (.alerting, 1, true, .double, none) := by decide +kernel

theorem test_1_8_ackKey : shows 12 (after (.keySteadyExpiry .ack) { s12in { state := .alerting, abnormal := true } with
      panel := { keyAck := ⟨.low, false, some 0⟩ } }) = some (.standing, 1, true, .steady, none) ∧
    records (after (.keySteadyExpiry .ack) { s12in { state := .alerting, abnormal := true } with
      panel := { keyAck := ⟨.low, false, some 0⟩ } }) =
      some [[3, 255, 255, 0], [0, 12, 2, 1]] := by decide +kernel

theorem test_1_8_remind : shows 12 (after (.reminderExpiry 12) (s12in { state := .standing, abnormal := true, reminder := some 0 })) =
    some (.alerting, 1, true, .double, some .high) := by decide +kernel

theorem test_1_8_ackPoint : shows 12 (after (.acknowledgePoint .b)
      (askedB .acknowledgePoint [12, 0, 1] (s12in { state := .alerting, abnormal := true }))) =
    some (.standing, 1, true, .steady, none) := by decide +kernel

theorem test_1_8_resetPoint : shows 12 (after (.resetPoint .a) (asked .resetPoint [12] (s12in { state := .awaitReset }))) =
      some (.idle, 1, false, .off, none) ∧
    records (after (.resetPoint .a) (asked .resetPoint [12] (s12in { state := .awaitReset }))) =
      some [[0, 12, 3, 0]] := by decide +kernel

/-- Point 30 of 1.9, in a state. -/
def s30 (d : Point) : State :=
  put 30 { enabled := true, sequence := .follow, priority := .urgent } d (upTo 300 State.reset)

theorem test_1_9_raise : shows 30 (after (.raise .a) (asked .raise [30] (s30 { state := .idle, occurrence := 6 }))) =
      some (.alerting, 7, false, .fast, some .urgent) ∧
    reply .a (after (.raise .a) (asked .raise [30] (s30 { state := .idle, occurrence := 6 }))) = some (.ok, [1]) := by
  decide +kernel

theorem test_1_9_clear : shows 30 (after (.clear .a) (asked .clear [30]
      (let s := s30 { state := .alerting, abnormal := true, occurrence := 7 }
      { s with conditions := s.conditions.set 30 ⟨true, true, false⟩ }))) =
    some (.returned, 7, false, .slow, none) := by decide +kernel

theorem test_1_9_stale : reply .b (after (.acknowledgePoint .b)
      (askedB .acknowledgePoint [30, 0, 7] (s30 { state := .alerting, abnormal := true, occurrence := 8 }))) =
    some (.stale, [2, 0, 8]) := by decide +kernel

/-! ## Lines (2.2) -/

theorem test_2_2_counts : (Line.scan .low { config := ⟨.activeLow, 3, 4⟩, run := 1 }).run = 2 := by decide
theorem test_2_2_qualifies : (Line.scan .low { config := ⟨.activeLow, 3, 4⟩, run := 2 }).abnormal = true := by decide
theorem test_2_2_breaks : (Line.scan .high { config := ⟨.activeLow, 3, 4⟩, run := 2 }).run = 0 := by decide

/-! ## Groups and suppression (3.3, 3.5) -/

/-- Points 50 to 52 of 3.3, in states. -/
def s50 (d50 d51 d52 : Point) : State :=
  let s := put 50 { enabled := true, priority := .urgent, source := .line 8, group := some 2 } d50
    (put 51 { enabled := true, sequence := .follow, priority := .high, source := .line 9, group := some 2, suppressor := some 50 } d51
      (put 52 { enabled := true, priority := .high, source := .line 10, group := some 2 } d52 (upTo 509 State.reset)))
  { s with alarm := { s.alarm with groups := s.alarm.groups.set 2 ⟨false, some 50, 3⟩ } }

/-- Step 8 of 3.3, before it. -/
def s50at8 : State := s50 { state := .awaitReset, occurrence := 5, mark := true }
  { state := .suppressed, abnormal := true, occurrence := 10 } { state := .standing, abnormal := true, occurrence := 3 }

theorem test_3_3_step8 : shows 51 (after (.resetPoint .a) (asked .resetPoint [50] s50at8)) =
      some (.alerting, 10, false, .fast, some .high) ∧
    records (after (.resetPoint .a) (asked .resetPoint [50] s50at8)) =
      some [[0, 50, 3, 0], [0, 51, 9, 0]] ∧
    (after (.resetPoint .a) (asked .resetPoint [50] s50at8)).map (fun t => t.alarm.groups[(2 : GroupId)]) =
      some ⟨false, some 50, 3⟩ := by decide +kernel

theorem test_3_3_resetAll : (after (.resetAll .b) (askedB .resetAll []
      (s50 { state := .idle, occurrence := 5 } { state := .idle, occurrence := 10 } { state := .awaitReset, occurrence := 3 }))).map
        (fun t => t.alarm.groups[(2 : GroupId)]) = some ⟨true, none, 3⟩ := by decide +kernel

/-- The part of 3.5 before its restart. -/
def s60 : State :=
  let s := put 60 { enabled := true, sequence := .follow, priority := .high, source := .line 14, group := some 3, suppressor := some 63 }
      { state := .suppressed, abnormal := true, occurrence := 12 }
    (put 61 { enabled := true, source := .line 16, group := some 3 } { state := .awaitReset, mark := true, occurrence := 2 }
      (put 63 { enabled := true, priority := .urgent, source := .line 15, group := some 3 }
        { state := .standing, abnormal := true, occurrence := 7 } (upTo 880 State.reset)))
  { s with alarm := { s.alarm with groups := s.alarm.groups.set 3 ⟨false, some 61, 3⟩ } }

theorem test_3_5_warm : records (after (.restartWarm .a) (asked .restart [0] s60)) =
      some [[15, 255, 255, 0], [0, 63, 11, 1], [0, 60, 8, 0]] ∧
    reply .a (after (.restartWarm .a) (asked .restart [0] s60)) = some (.ok, [0, 0, 3, 0x71]) ∧
    shows 61 (after (.restartWarm .a) (asked .restart [0] s60)) = some (.idle, 2, false, .off, none) := by decide +kernel

/-! ## The shelf and chatter (4.3, 4.5) -/

/-- Points 20 to 22 of 4.3 shelved as at its time 5 (in minutes). -/
def s20 : State :=
  let p (n : PointId) (s : State) := put n { enabled := true } { state := .shelved } s
  let s := at_ 300000 (p 20 (p 21 (p 22 State.reset)))
  { s with alarm := { s.alarm with shelf := [⟨21, .link .a, 10, 600000⟩, ⟨20, .link .a, 30, 1800000⟩, ⟨22, .link .b, 30, 1800000⟩] } }

theorem test_4_3_replaced : (after (.shelvePoint .b) (askedB .shelvePoint [21, 0, 25] s20)).map (fun t => t.alarm.shelf) =
      some [⟨20, .link .a, 30, 1800000⟩, ⟨22, .link .b, 30, 1800000⟩, ⟨21, .link .b, 25, 1800000⟩] ∧
    reply .b (after (.shelvePoint .b) (askedB .shelvePoint [21, 0, 25] s20)) = some (.ok, [21, 0, 0, 0x05, 0xDC, 3]) := by
  decide +kernel

theorem test_4_3_unshelved : reply .a (after (.unshelvePoint .a) (asked .unshelvePoint [22] s20)) = some (.ok, [1, 0, 0]) := by
  decide +kernel

theorem test_4_3_expiry : (after .shelfExpiry (at_ 600000 s20)).map (fun t => t.alarm.shelf.map ShelfEntry.point) =
    some [20, 22] := by decide +kernel

/-- Read Shelf at an expiry not yet taken shows one second left (R63, R75). -/
theorem test_R75_at_least_one : ((reply .a (after (.readShelf .a) (asked .readShelf [] (at_ 600000 s20)))).map
    fun x => x.2.take 9) = some [3, 21, 0, 0, 10, 0, 0, 0, 1] := by decide +kernel

/-- Point 70 of 4.5 at its time 9, its line one scan short. -/
def s70 : State :=
  let s := put 70 { enabled := true, priority := .high, source := .line 20, chatterLimit := 3 }
    { state := .alerting, occurrence := 15 } (at_ 9000 (upTo 704 State.reset))
  { s with
    lines := s.lines.set 20 { run := 19 }
    alarm := { s.alarm with chatter := s.alarm.chatter.set 70 ⟨2, some 60000⟩ } }

theorem test_4_5_chatter : shows 70 (after (.lineScan 0xEFFFFF) s70) = some (.shelved, 15, false, .off, none) ∧
    records (after (.lineScan 0xEFFFFF) s70) =
      some [[0, 70, 0, 0], [0, 70, 12, 0]] ∧
    (after (.lineScan 0xEFFFFF) s70).map (fun t => t.alarm.shelf) = some [⟨70, .chatter, 10, 609000⟩] := by decide +kernel

theorem test_chatterWindow : (after (.chatterWindowExpiry 70) (at_ 60000 s70)).map
    (fun t => t.alarm.chatter[(70 : PointId)]) = some ⟨0, none⟩ := by decide +kernel

/-! ## Sounders and panel (5.4, 6.2.1) -/

/-- Claims at levels 3 and 1 with DUAL on, as at step 3 of 5.4. -/
def sounder3 : Sounder := { dual := true, claims3 := [⟨81, 0⟩], claims1 := [⟨80, 0⟩] }

theorem test_5_4_step4 :
    let s := sounder3.assign 0 {}
    let t := s.passClaim false false 10 82 (some .high) 0
    t.ch0 = s.ch0 ∧ t.ch1.mode = .level .high := by decide +kernel

theorem test_5_4_chirp_dropped : ((sounder3.assign 0 {}).chirp 0).2 = .dropped := by decide +kernel

theorem test_5_4_chirp_free : (({} : Sounder).chirp 0).2 = .started .ch1 := by decide +kernel

theorem test_escalation : ((Channel.startLevel 0 ⟨2400, 1800, 200, 0, 10, 15, 5⟩ .urgent).escalate 5000).loudness = 11 := by
  decide +kernel

/-- A channel that has sounded at 200 Hz since count 0 takes a new loudness at count 7: it is heard from count 10, where the
next period begins (R79). -/
theorem test_R79_next_period :
    let c : Channel := { Channel.startLevel 0 ⟨200, 0, 500, 0, 10, 15, 5⟩ .low with escalation := some 7 }
    let d := c.escalate 7
    c.output 7 = some (200, 10) ∧ d.output 7 = some (200, 10) ∧ d.output 9 = some (200, 10) ∧
      d.output 10 = some (200, 11) := by decide +kernel

theorem test_6_2_1_begin : reply .a (after (.testBegin .a) (asked .testBegin [10] State.reset)) = some (.ok, [2, 10]) ∧
    (after (.testBegin .a) (asked .testBegin [10] State.reset)).map (fun t => (t.alarm.sounder.ch0.mode, t.panel.testTimerA)) =
      some (.test, some 10000) := by decide +kernel

theorem test_lamps : (after .lampRefresh (at_ 10 (s12in { state := .alerting }))).map (fun t => t.panel.drivers[(12 : PointId)]) =
      some true ∧
    Pattern.lit 150 .double = false ∧ Pattern.lit 250 .double = true ∧
      Pattern.lit 125 .fast = false := by decide +kernel

/-! ## Journal and streams (7.4, 8.5) -/

/-- A ring of 4 records in place of 1024, the newest 5023. -/
def j4 : Journal :=
  { Journal.reset with
    ring := [5020, 5021, 5022, 5023].map fun n => ⟨n, 0, .elapsed, { kind := .silence, origin := .part }⟩
    nextSeq := 5024 }

theorem test_7_4_lost : (j4.fetch 5010 4).map (fun r => (r.seq, r.body.kind, r.body.detail)) =
    [(5010, .gap, some 10), (5020, .silence, none), (5021, .silence, none), (5022, .silence, none)] := by decide +kernel

theorem test_7_4_next : j4.fetch 5024 8 = [] ∧ j4.fetch 5025 8 = [] := by decide +kernel

theorem test_7_4_wrap : seqSteps 4294967270 1001 = 1026 ∧ seqAfter 4294967295 = 1 := by decide +kernel

theorem test_8_5_step3 : Stream.overwritten 9002 ⟨true, 9002, 0, none⟩ = ⟨true, 9003, 0, some ⟨9002, 1⟩⟩ ∧
    Stream.overwritten 9003 ⟨true, 9003, 0, some ⟨9002, 1⟩⟩ = ⟨true, 9004, 0, some ⟨9002, 2⟩⟩ ∧
    Stream.overwritten 9001 ⟨true, 9002, 0, none⟩ = ⟨true, 9002, 0, none⟩ := by decide +kernel

/-! ## A commit (9.4) -/

/-- The active configuration of 9.4 (of its points). -/
def s94 : State :=
  let s := put 10 { enabled := true, priority := .high, source := .line 3 } { state := .standing, abnormal := true, occurrence := 5 }
    (put 11 { enabled := true, sequence := .follow } { state := .alerting, abnormal := true, occurrence := 3 }
      (put 12 { enabled := true, priority := .high, source := .line 4, group := some 0 }
          { state := .alerting, abnormal := true, occurrence := 8, mark := true }
        (put 13 { enabled := true, source := .line 5, group := some 0 } { state := .awaitReset, occurrence := 6 }
        (put 14 { enabled := true, sequence := .follow, source := .line 6 } { state := .shelved, occurrence := 11 }
          (put 16 { enabled := true, sequence := .follow, source := .msg .a, suppressor := some 10 }
            { state := .suppressed, abnormal := true, occurrence := 2 } (upTo 2000 State.reset))))))
  { s with alarm := { s.alarm with shelf := [⟨14, .link .b, 30, 1800000⟩], groups := s.alarm.groups.set 0 ⟨false, some 12, 1⟩ } }

/-- What 9.4 stages. -/
def c94 : Configuration :=
  { s94.active with points := ((((s94.active.points.set 10 { s94.active.points[10] with reminderMinutes := 2 }).set 11
    { s94.active.points[11] with priority := .urgent }).set 12 { s94.active.points[12] with sequence := .follow }).set 14
    { s94.active.points[14] with enabled := false }).set 16 { s94.active.points[16] with suppressor := none } }

/-- 9.4 with its check just completed. -/
def s94done : State :=
  let s := holding c94 s94
  { s with
    manager := { s.manager with check := some 0 }
    linkA := { s.linkA with executing := some (frame .commit []) } }

theorem test_9_4_records : records (after .commitCheckCompletion s94done) =
    some [[9, 255, 255, 1029], [0, 14, 10, 0], [0, 12, 10, 0],
      [0, 16, 9, 0], [0, 12, 10, 0]] := by decide +kernel

theorem test_9_4_point12 : shows 12 (after .commitCheckCompletion s94done) = some (.alerting, 9, false, .fast, some .high) := by
  decide +kernel

theorem test_9_4_reply : reply .a (after .commitCheckCompletion s94done) = some (.ok, [4, 5, 0, 0, 7, 0xD1]) := by
  decide +kernel

/-! ## Links (10.3.1, 11.9) -/

/-- Link A with Commit in execution and four frames waiting, the framer at the last character of a Silence frame. -/
def sBusy : State :=
  { State.reset with linkA := { State.reset.linkA with
      executing := some (frame .commit []), waiting := List.replicate 4 (frame .ping [])
      framer := .check [25, 0x24] (some ((crcOf [2, 25, 0x24]).extractLsb' 8 8)) } }

theorem test_10_3_1_busy : (after (.receiveCharacter .a (.good ((crcOf [2, 25, 0x24]).setWidth 8))) sBusy).map
      (fun t => (t.linkA.waiting.length, t.linkA.busyRefusals, t.linkA.replies.map fun r => (r.tag, r.answer.status))) =
    some (4, 1, [(25, .busy)]) := by decide +kernel

/-- The TEST key held down: a full reset sets its qualifier to HIGH, and the part's own first sample finds it LOW and starts
the steady timer (R103). -/
theorem test_R103_held_through_reset :
    let held : State := { State.reset with keyLines := { test := ⟨.low, none⟩ } }
    (after (.fullReset ⟨.low, .low⟩) held).map (fun t => (t.panel.keyTest, (at_ 1 t).dueOnKey .test)) =
      some (⟨.high, false, none⟩, [.keySample .test .low]) ∧
    (after (.keySample .test .low) (at_ 1 State.reset)).map (fun t => (t.panel.keyTest, t.keyLine .test)) =
      some (⟨.low, false, some 21⟩, ⟨.low, some 2⟩) ∧
    (after (.keySample .test .low) State.reset).map (fun t => (t.panel.keyTest, t.keyLine .test)) =
      some (⟨.high, false, none⟩, ⟨.low, some 1⟩) := by decide +kernel

/-- A BUSY reply placed while a reservation stood comes before the reply that takes the reservation over (log 24). -/
theorem test_log24_busy_first : ((({ executing := some (frame .commit []), replies := [⟨25, 0x24, { status := .busy }⟩] } : Link).finish
    (frame .commit []) { status := .ok }).replies.map fun r => r.answer.status) =
    [.busy, .ok] := by decide

/-- Link A within a frame, its gap timer due at count 10. -/
def sGap : State :=
  { at_ 10 State.reset with
    linkA := { State.reset.linkA with framer := .length, gapTimer := some 10 }, scanTimer := none, panel := { refresh := none }
    keyLines := ⟨⟨.high, none⟩, ⟨.high, none⟩, ⟨.high, none⟩, ⟨.high, none⟩⟩ }

/-- A character at the tenth millisecond is taken; with none the frame is abandoned as that count ends (R167). -/
theorem test_R167_gap : (after (.receiveCharacter .a (.good 2)) sGap).map (fun t => t.linkA.framer) = some (.collect 2 []) ∧
    sGap.dueCommands = [] ∧ sGap.endCount.tick.linkA.framer = .hunt ∧ sGap.endCount.tick.linkA.framingErrors = 1 ∧
    sGap.endCount.tick.alarm.journal.elapsed = 11 := by decide +kernel

theorem test_11_9_reply : (after (.acknowledgePoint .b)
      (askedB .acknowledgePoint [30, 0, 8] (s30 { state := .alerting, abnormal := true, occurrence := 8 }))).map
        (fun t => t.linkB.sending.map fun x => x.chars.take 9) = some (some [0x5A, 7, 1, 0xA3, 0, 0, 3, 0, 8]) := by decide +kernel

theorem test_hello : reply .a (after (.hello .a) (asked .hello [1, 0, 0] State.reset)) =
    some (.ok, [0x49, 0x50, 0x53, 0x55, 0x52, 0x41, 0x25, 0xA8, 2, 1, 0, 2, 0, 0, 0, 0, 1, 0, 0]) := by decide +kernel

theorem test_silent_link : (after (.supervisionExpiry .a) { State.reset with
      linkA := { State.reset.linkA with state := .live, heartbeat := 5, supervision := some 0 } }).map
    (fun t => t.linkA.state) = some .silent := by decide +kernel

theorem test_cold_restart : (after (.transmitComplete .a ⟨.high, .low⟩) { s94 with
      linkA := { s94.linkA with sending := some ⟨[], true, true⟩ } }).map (fun t => (t.active, t.baud)) =
    some ({}, .b115200) := by decide +kernel

/-- With nothing waiting and nothing due, a step ends the count and lets a millisecond pass. -/
theorem idle_step {s : State} (hp : s.pending = []) (h : s.dueCommands = []) :
    step s = .next { s with toPart := s.endCount.tick } := by
  simp [step, Part.nextDue, h, hp]

/-- Nothing is due right after reset. -/
theorem test_reset_step : step State.reset = .next { State.reset with toPart := State.reset.endCount.tick } :=
  idle_step rfl (by decide +kernel)

/-- The first line scan and the first sample of each key are due one millisecond after the reset, and the first lamp refresh
ten. -/
theorem test_first_scan : (at_ 1 State.reset).dueCommands = [.keySample .ack .high, .keySample .silence .high,
      .keySample .reset .high, .keySample .test .high, .lineScan 0xFFFFFF] ∧
    Instr.lampRefresh ∈ (at_ 10 State.reset).dueCommands ∧ Instr.lampRefresh ∉ (at_ 9 State.reset).dueCommands := by
  decide +kernel

/-! ## The hypotheses of the statements can be met

One theorem for each statement with hypotheses, named after it: concrete states and operands that meet them together, for
each clause, at the edges of its ranges.  Most states are `State.reset` with one frame waiting on Link A. -/

/-- Link A executes a waiting frame of this kind and body. -/
def Meets (k : RequestKind) (body : List Byte) (s : State) : Prop := (asked k body s).Ready .a k (frame k body)

/-- Whatever the rest of the state, a link at its reset values with one good frame waiting executes it. -/
theorem meets {k : RequestKind} {body : List Byte} {s : State} (hl : s.linkA = {}) (h : k.lengthOk body = true) :
    Meets k body s := by
  have hk : RequestKind.ofCode k.code = some k := by cases k <;> rfl
  have ha : Authority.allows .configure k.needs = true := by cases k <;> rfl
  refine ⟨?_, hk, ?_, h, ?_⟩ <;> simp only [asked, Part.link, hl] <;> first | rfl | exact ha

theorem put_config (p : PointId) (c : PointConfig) (d : Point) (s : State) : (put p c d s).active.points[p] = c := by
  simp [put]

theorem put_point (p : PointId) (c : PointConfig) (d : Point) (s : State) : (put p c d s).alarm.points[p] = d := by
  simp [put]

/-- Nothing due, a gap timer alone due, and a scan and a refresh due; a timer of the longest duration. -/
theorem witness_EmptyQueueDoesDueWorkOrTime :
    State.reset.pending = [] ∧ State.reset.dueCommands = [] ∧
    (let s : State := { State.reset with linkB := { State.reset.linkB with framer := .length, gapTimer := some 0 } }
    s.pending = [] ∧ s.dueCommands = [] ∧ Timer.due s.alarm.journal.elapsed s.linkB.gapTimer = true) ∧
    (at_ 10 State.reset).pending = [] ∧ (at_ 10 State.reset).dueCommands ≠ [] ∧
    281474976710655 < 281474976710656 ∧ 140737488355327 < 140737488355328 := by decide +kernel

theorem witness_CommandsCompleteExactlyWhenWellFormed :
    (Instr.reminderExpiry 95).wellFormed = true ∧ (Instr.reminderExpiry 96).wellFormed = false := by decide

/-- A Ping waits, and no timer runs: nothing but Ping has its condition. -/
theorem witness_RowsWithoutTheirConditionChangeNothing :
    let s := asked .ping [] State.reset
    (s.link .a).nextFrame = some (frame .ping []) ∧
    RequestKind.ofCode (frame .ping []).kind ≠ some .hello ∧ RequestKind.ofCode (frame .ping []).kind ≠ none ∧
    Timer.due s.alarm.journal.elapsed (s.link .a).gapTimer = false ∧ s.silenceDue .a = false ∧
    Timer.due s.alarm.journal.elapsed (s.panel.testTimer .a) = false ∧
    Timer.due s.alarm.journal.elapsed (s.panel.key .test).steady = false ∧ s.reminderDue 95 = false ∧
    Timer.due s.alarm.journal.elapsed s.alarm.chatter[(0 : PointId)].window = false ∧ s.alarm.shelfDue = none ∧
    Timer.due s.alarm.journal.elapsed s.manager.check = false ∧
    Timer.due s.alarm.journal.elapsed (s.channel .ch1).cadence = false ∧
    Timer.due s.alarm.journal.elapsed (s.channel .ch1).escalation = false ∧
    Timer.due s.alarm.journal.elapsed (s.channel .ch1).chirpTimer = false ∧
    Timer.due s.alarm.journal.elapsed s.scanTimer = false ∧
    Timer.due s.alarm.journal.elapsed s.panel.refresh = false ∧
    Timer.due s.alarm.journal.elapsed (s.keyLine .test).sample = false ∧ (s.link .a).sending = none := by decide +kernel

/-- A frame of kind 7Fh, a Ping with a body of one character, and a Silence on a link with OBSERVE. -/
theorem witness_CommonChecksRefuseInOrder :
    (let f : Frame := ⟨1, 0x7F, [], 0⟩
    let k : Link := { waiting := [f] }
    k.nextFrame = some f ∧ k.cachedReply f = none ∧ RequestKind.ofCode f.kind = none) ∧
    (let f := frame .ping [0]
    let k : Link := { waiting := [f] }
    k.nextFrame = some f ∧ k.cachedReply f = none ∧ RequestKind.ofCode f.kind = some .ping ∧
      RequestKind.lengthOk .ping f.body = false) ∧
    (let f := frame .silence []
    let k : Link := { waiting := [f], authority := .observe }
    k.nextFrame = some f ∧ k.cachedReply f = none ∧ RequestKind.ofCode f.kind = some .silence ∧
      RequestKind.lengthOk .silence f.body = true ∧ k.authority.code < RequestKind.silence.needs.code) := by decide +kernel

theorem witness_AnswersAndRetriesTakeTheReservedPlace :
    let f := frame .silence []
    let k : Link := { waiting := [f], cache := some ⟨1, 0x24, 0, ⟨1, 0x24, okAnswer [0]⟩⟩ }
    k.nextFrame = some f ∧ f.tag ≠ 0 ∧ f.kind = 0x24 ∧ f.crc = 0 := by decide +kernel

/-- The laws of a Journal that holds START_COLD alone, Link A's stream at given values. -/
theorem startCold_law (t : Stream) (hu : t.subscribed = false → t = {}) (h1 : t.cursor = 1) (hc : t.credits ≤ 64)
    (hg : t.gap = none) : ({ Journal.reset with streamA := t } : Journal).Law := by
  have i1 : isSeq 1 := ⟨by decide, by decide⟩
  have i2 : isSeq 2 := ⟨by decide, by decide⟩
  refine ⟨⟨by simp [Journal.reset], by simp [Journal.reset, Config.ringSize], i2, ?_, rfl⟩,
    ⟨hu, ?_, ?_, hc, ?_⟩, ⟨fun _ => rfl, i1, nofun, Nat.zero_le _, nofun⟩⟩
  · intro r hr
    obtain rfl := List.mem_singleton.mp hr
    exact i1
  · show isSeq t.cursor
    rw [h1]; exact i1
  · intro _
    show seqSteps t.cursor 2 ≤ 1
    rw [h1]; decide +kernel
  · intro g h
    have : t.gap = some g := h
    rw [hg] at this
    exact nomatch this

theorem witness_TransmittersChooseAndFree :
    (∀ isReply resets : Bool, ({ sending := some ⟨[], isReply, resets⟩ } : Link).sending = some ⟨[], isReply, resets⟩) ∧
    (let k : Link := { replies := [⟨1, 2, okAnswer []⟩] }
    k.sending = none ∧ k.replies = ⟨1, 2, okAnswer []⟩ :: []) ∧
    Journal.reset.offers .a = false ∧
    (let j : Journal := { Journal.reset with streamA := ⟨true, 2, 1, some ⟨1, 1⟩⟩ }
    j.offers .a = true ∧ (j.stream .a).gap = some ⟨1, 1⟩) ∧
    (let j : Journal := { Journal.reset with streamA := ⟨true, 1, 1, none⟩ }
    j.Law ∧ j.offers .a = true ∧ (j.stream .a).gap = none ∧ startColdRecord ∈ j.ring ∧
      startColdRecord.seq = (j.stream .a).cursor) :=
  ⟨fun _ _ => rfl, by decide, by decide, by decide +kernel, startCold_law _ nofun rfl (by decide) rfl, by decide +kernel⟩

theorem witness_PingAnswersOk : Meets .ping [] State.reset := meets rfl rfl

/-- The last 16 points; one point too many; points 96, and counts 0 and 17. -/
theorem witness_ReadPointAnswersTheRun :
    (Meets .readPoint [80, 16] State.reset ∧ field [80, 16] 0 1 = 80 ∧ field [80, 16] 1 1 = 16 ∧ 80 + 16 ≤ 96) ∧
    (Meets .readPoint [81, 16] State.reset ∧ 96 < field [81, 16] 0 1 + field [81, 16] 1 1) ∧
    (Meets .readPoint [96, 1] State.reset ∧ 95 < field [96, 1] 0 1) ∧
    (Meets .readPoint [0, 0] State.reset ∧ field [0, 0] 1 1 = 0) ∧
    (Meets .readPoint [95, 17] State.reset ∧ 16 < field [95, 17] 1 1) :=
  ⟨⟨meets rfl rfl, by decide⟩, ⟨meets rfl rfl, by decide⟩, ⟨meets rfl rfl, by decide⟩, ⟨meets rfl rfl, by decide⟩,
    ⟨meets rfl rfl, by decide⟩⟩

theorem witness_ReadsAnswerWhatStands :
    Meets .readSummary [] State.reset ∧ Meets .readLines [] State.reset ∧ Meets .readGroups [] State.reset ∧
    Meets .readShelf [] State.reset ∧ Meets .readSounders [] State.reset ∧ Meets .readPanel [] State.reset :=
  ⟨meets rfl rfl, meets rfl rfl, meets rfl rfl, meets rfl rfl, meets rfl rfl, meets rfl rfl⟩

theorem witness_ReadLinkStatusReadsAndClears :
    (Meets .readLinkStatus [1, 0] State.reset ∧ field [1, 0] 0 1 = linkCode .b ∧ field [1, 0] 1 1 = 0) ∧
    (Meets .readLinkStatus [0, 1] State.reset ∧ field [0, 1] 0 1 = linkCode .a ∧ field [0, 1] 1 1 = 1) ∧
    (Meets .readLinkStatus [2, 0] State.reset ∧ 2 ≤ field [2, 0] 0 1) ∧
    (Meets .readLinkStatus [0, 2] State.reset ∧ field [0, 2] 0 1 = linkCode .a ∧ 2 ≤ field [0, 2] 1 1) :=
  ⟨⟨meets rfl rfl, by decide⟩, ⟨meets rfl rfl, by decide⟩, ⟨meets rfl rfl, by decide⟩, ⟨meets rfl rfl, by decide⟩⟩

/-- Point 95; the holder's staging; a link that holds none; set 6, and relay 3 of set 3. -/
theorem witness_ReadActiveAndStagedAnswerTheRecord :
    (Meets .readActive [0, 95] State.reset ∧ recordName (field [0, 95] 0 1) (field [0, 95] 1 1) = .ok (.point 95)) ∧
    (Meets .readStaged [5, 9] (holding {} State.reset) ∧
      recordName (field [5, 9] 0 1) (field [5, 9] 1 1) = .ok .global ∧
      (asked .readStaged [5, 9] (holding {} State.reset)).manager.holder = some .a ∧
      (asked .readStaged [5, 9] (holding {} State.reset)).manager.staging = some {}) ∧
    (Meets .readStaged [5, 9] State.reset ∧ State.reset.manager.holder ≠ some .a) ∧
    (Meets .readActive [6, 0] State.reset ∧ recordName (field [6, 0] 0 1) (field [6, 0] 1 1) = .error (refuse .range [1, 0, 0, 0, 6])) ∧
    (Meets .readStaged [3, 3] State.reset ∧
      recordName (field [3, 3] 0 1) (field [3, 3] 1 1) = .error (refuse .range [2, 0, 0, 0, 3])) :=
  ⟨⟨meets rfl rfl, rfl⟩, ⟨meets rfl rfl, rfl, rfl, rfl⟩, ⟨meets rfl rfl, nofun⟩, ⟨meets rfl rfl, rfl⟩, ⟨meets rfl rfl, rfl⟩⟩

theorem witness_RecordAndReplyLayouts :
    (let r : Record := ⟨4294967295, 281474976710655, .calendar, ⟨.point, .panel, some 95, some (.idle, .alerting), some .qa, some 65535, some 65535⟩⟩
    r.seq < 2 ^ 32 ∧ r.time < 2 ^ 48 ∧ r.body.occurrence = some 65535 ∧ r.body.detail = some 65535) ∧
    startColdRecord.body.occurrence = none ∧ startColdRecord.body.detail = none ∧
    (let r : Reply := ⟨1, 0x7F, okAnswer (List.replicate 238 0)⟩
    r.answer.data.length ≤ 238 ∧ r.kind.toNat < 128) := by decide +kernel

/-- A Journal of one record, number 1, with 2 the next. -/
theorem witness_FetchAnswersTheRun :
    (Meets .fetch [0, 0, 0, 0, 1] State.reset ∧ field [0, 0, 0, 0, 1] 0 4 = 0) ∧
    (Meets .fetch [0, 0, 0, 1, 9] State.reset ∧ field [0, 0, 0, 1, 9] 0 4 = 1 ∧ field [0, 0, 0, 1, 9] 4 1 = 9) ∧
    (Meets .fetch [0, 0, 0, 2, 8] State.reset ∧ field [0, 0, 0, 2, 8] 0 4 = 2 ∧ field [0, 0, 0, 2, 8] 4 1 = 8 ∧
      seqSteps 2 State.reset.alarm.journal.nextSeq = 0) ∧
    (Meets .fetch [0, 0, 0, 1, 1] State.reset ∧ field [0, 0, 0, 1, 1] 0 4 = 1 ∧
      seqSteps 1 State.reset.alarm.journal.nextSeq = 1 ∧ State.reset.alarm.journal.ring.length = 1) ∧
    (Meets .fetch [255, 255, 255, 255, 1] State.reset ∧ field [255, 255, 255, 255, 1] 0 4 = 4294967295 ∧
      seqSteps 4294967295 State.reset.alarm.journal.nextSeq = 2) ∧
    (Meets .fetch [128, 0, 0, 2, 1] State.reset ∧ field [128, 0, 0, 2, 1] 0 4 = 2147483650 ∧
      seqSteps 2147483650 State.reset.alarm.journal.nextSeq = 2147483647) ∧
    (Meets .fetch [0, 0, 0, 3, 1] State.reset ∧ field [0, 0, 0, 3, 1] 0 4 = 3 ∧
      2147483647 < seqSteps 3 State.reset.alarm.journal.nextSeq) := by
  refine ⟨⟨meets rfl rfl, ?_⟩, ⟨meets rfl rfl, ?_⟩, ⟨meets rfl rfl, ?_⟩, ⟨meets rfl rfl, ?_⟩, ⟨meets rfl rfl, ?_⟩,
    ⟨meets rfl rfl, ?_⟩, ⟨meets rfl rfl, ?_⟩⟩ <;> decide +kernel

/-- Both polarities; runs one short of the counts, and short of that. -/
theorem witness_LineScanMovesTheRunCounter :
    (let x : Line := { run := 19 }
    x.abnormal = false ∧ x.config.polarity = .activeLow ∧ x.run + 1 = x.config.onCount) ∧
    (let x : Line := { run := 18, config := ⟨.activeHigh, 20, 20⟩ }
    x.abnormal = false ∧ x.config.polarity = .activeHigh ∧ x.run + 1 ≠ x.config.onCount) ∧
    (let x : Line := { abnormal := true, run := 19 }
    x.abnormal = true ∧ x.run + 1 = x.config.offCount) ∧
    (let x : Line := { abnormal := true, run := 0 }
    x.abnormal = true ∧ x.run + 1 ≠ x.config.offCount) := by decide

/-- IN5 is one scan short of its on-count, and point 12 reads it; the other lines stay. -/
theorem witness_LineScanReachesThePointsOfChangedLines :
    Timer.due s12.alarm.journal.elapsed s12.scanTimer = true ∧
    s12.active.points[(12 : PointId)].source = .line 5 ∧
    (s12.lines[(5 : LineId)].scan .low).abnormal ≠ s12.lines[(5 : LineId)].abnormal ∧
    s12.conditions[(12 : PointId)].abnormal = false ∧ s12.active.points[(95 : PointId)].source ≠ .line 5 ∧
    (State.reset.lines[(0 : LineId)].scan .high).abnormal = State.reset.lines[(0 : LineId)].abnormal := by decide +kernel

theorem witness_RaiseAndClearSetTheAssertions :
    (Meets .raise [0, 95, 0] State.reset ∧ ([0, 95, 0] : List Byte).map BitVec.toNat = ([0, 95, 0] : List PointId).map Fin.val ∧
      ∀ p ∈ ([0, 95, 0] : List PointId), State.reset.active.points[p].source = .msgAny) ∧
    (Meets .clear [95] State.reset ∧ ([95] : List Byte).map BitVec.toNat = ([95] : List PointId).map Fin.val) :=
  ⟨⟨meets rfl rfl, by decide +kernel⟩, ⟨meets rfl rfl, by decide⟩⟩

/-- A point of any sequence in any state, with no suppressor. -/
theorem witness_ConditionChangesFollowTheTables (q : Sequence) (t : PointState) :
    let s := put 7 { enabled := true, sequence := q } { state := t } State.reset
    (s.env .line).config.points[(7 : PointId)].suppressor ≠ some 7 ∧
    (s.env .line).config.points[(7 : PointId)].sequence = q ∧ s.alarm.points[(7 : PointId)].state = t := by
  refine ⟨?_, ?_, ?_⟩
  · show (put 7 _ { state := t } _).active.points[(7 : PointId)].suppressor ≠ _
    rw [put_config]; exact nofun
  · show (put 7 _ { state := t } _).active.points[(7 : PointId)].sequence = q
    rw [put_config]
  · rw [put_point]

/-- Point 70 of 4.5: one QA short of its limit; a limit not reached; no limit; and a full table. -/
theorem witness_DeliveriesActAndAreCounted :
    (∀ t : PointState, (put 7 {} { state := t } State.reset).alarm.points[(7 : PointId)].state = t) ∧
    s70.active.points[(70 : PointId)].chatterLimit = 3 ∧ s70.alarm.chatter[(70 : PointId)].count + 1 = 3 ∧
    s70.alarm.shelf.length < 16 ∧
    State.reset.alarm.chatter[(70 : PointId)].count + 1 < 3 ∧
    State.reset.active.points[(70 : PointId)].chatterLimit = 0 ∧
    16 ≤ (List.replicate 16 (⟨1, .chatter, 1, 0⟩ : ShelfEntry)).length :=
  ⟨fun _ => by rw [put_point], by decide +kernel⟩

/-- A HOLD and a FOLLOW point of occurrence 1 in their waiting states; occurrence 0 named, and 1. -/
theorem witness_AcknowledgePointMovesThePoint :
    (let s := put 95 { enabled := true } { state := .alerting, abnormal := true, occurrence := 1 } State.reset
    Meets .acknowledgePoint [95, 0, 0] s ∧ field [95, 0, 0] 0 1 = 95 ∧ field [95, 0, 0] 1 2 = 0 ∧
      s.active.points[(95 : PointId)].sequence = .hold ∧ s.alarm.points[(95 : PointId)].state = .alerting) ∧
    (let s := put 0 { enabled := true, sequence := .follow } { state := .alerting, occurrence := 1 } State.reset
    Meets .acknowledgePoint [0, 0, 1] s ∧ field [0, 0, 1] 1 2 = s.alarm.points[(0 : PointId)].occurrence ∧
      s.active.points[(0 : PointId)].sequence = .follow ∧ s.alarm.points[(0 : PointId)].state = .alerting) ∧
    (let s := put 0 { enabled := true, sequence := .follow } { state := .returned, occurrence := 1 } State.reset
    Meets .acknowledgePoint [0, 0, 1] s ∧ s.active.points[(0 : PointId)].sequence = .follow ∧
      s.alarm.points[(0 : PointId)].state = .returned) :=
  ⟨⟨meets rfl rfl, by decide +kernel⟩, ⟨meets rfl rfl, by decide +kernel⟩, ⟨meets rfl rfl, by decide +kernel⟩⟩

theorem witness_ListedAndSinglePointsAreCheckedFirst :
    (Meets .acknowledgePoint [96, 0, 0] State.reset ∧ 95 < field [96, 0, 0] 0 1) ∧
    (Meets .acknowledgePoint [95, 0, 0] State.reset ∧ State.reset.alarm.points[(95 : PointId)].state = .disabled) ∧
    (let s := put 95 { enabled := true } { state := .alerting, occurrence := 2 } State.reset
    Meets .acknowledgePoint [95, 0, 1] s ∧ s.alarm.points[(95 : PointId)].state = .alerting ∧ field [95, 0, 1] 1 2 = 1 ∧
      s.alarm.points[(95 : PointId)].occurrence = 2) ∧
    (Meets .raise [0, 96] State.reset ∧ ([0, 96] : List Byte) = ([0] : List PointId).map (fun p => BitVec.ofNat 8 p.val) ++ 96 :: [] ∧
      State.reset.active.points[(0 : PointId)].source = .msgAny) ∧
    (let s := put 95 { source := .msg .b } {} State.reset
    Meets .clear [95] s ∧ s.active.points[(95 : PointId)].source = .msg .b) ∧
    (Meets .shelvePoint [96, 0, 1] State.reset ∧ 95 < field [96, 0, 1] 0 1) ∧
    (Meets .shelvePoint [95, 0, 0] State.reset ∧ field [95, 0, 0] 1 2 = 0) ∧
    (Meets .shelvePoint [95, 5, 161] State.reset ∧ field [95, 5, 161] 1 2 = 1441) ∧
    (Meets .shelvePoint [95, 5, 160] State.reset ∧ field [95, 5, 160] 1 2 = 1440 ∧
      State.reset.alarm.points[(95 : PointId)].state = .disabled) ∧
    (let s : State := put 95 { enabled := true } { state := .idle } { State.reset with alarm := { State.reset.alarm with
      shelf := List.replicate 16 ⟨1, .chatter, 1, 0⟩ } }
    Meets .shelvePoint [95, 0, 1] s ∧ s.alarm.points[(95 : PointId)].state = .idle ∧ 16 ≤ s.alarm.shelf.length) := by
  refine ⟨⟨meets rfl rfl, ?_⟩, ⟨meets rfl rfl, ?_⟩, ⟨meets rfl rfl, ?_⟩, ⟨meets rfl rfl, ?_⟩, ⟨meets rfl rfl, ?_⟩,
    ⟨meets rfl rfl, ?_⟩, ⟨meets rfl rfl, ?_⟩, ⟨meets rfl rfl, ?_⟩, ⟨meets rfl rfl, ?_⟩, ⟨meets rfl rfl, ?_⟩⟩ <;> decide +kernel

/-- A waiting point of each sequence, a point that does not wait, and none SUPPRESSED. -/
theorem witness_AcknowledgeAllSweepsThePoints :
    let s := put 0 { enabled := true } { state := .alerting, abnormal := true }
      (put 95 { enabled := true, sequence := .follow } { state := .returned } State.reset)
    Meets .acknowledgeAll [] s ∧ s.alarm.points[(0 : PointId)].pendingAck = true ∧
      s.active.points[(0 : PointId)].sequence = .hold ∧ s.alarm.points[(0 : PointId)].state = .alerting ∧
      s.alarm.points[(95 : PointId)].pendingAck = true ∧ s.active.points[(95 : PointId)].sequence = .follow ∧
      s.alarm.points[(95 : PointId)].state = .returned ∧ s.alarm.points[(1 : PointId)].pendingAck = false ∧
      (∀ p : PointId, s.alarm.points[p].state ≠ .suppressed) ∧ (asked .acknowledgeAll [] s).alarm.SequenceLaw s.active :=
  ⟨meets rfl rfl, by decide +kernel, by decide +kernel, by decide +kernel, by decide +kernel, by decide +kernel,
    by decide +kernel, by decide +kernel, by decide +kernel,
    ⟨by decide +kernel, by decide +kernel, by decide +kernel, by decide +kernel⟩⟩

theorem witness_SilenceHushesEveryAudiblePoint :
    let s := put 0 { enabled := true } { state := .alerting, abnormal := true } State.reset
    Meets .silence [] s ∧ s.alarm.points[(0 : PointId)].audible = true ∧
      s.alarm.points[(95 : PointId)].audible = false ∧
      (∀ p : PointId, s.alarm.lamps[p] = s.alarm.points[p].pattern) :=
  ⟨meets rfl rfl, by decide +kernel⟩

theorem witness_ResetRequestsClearWaitingPoints :
    (let s := put 95 { enabled := true } { state := .awaitReset, occurrence := 1 } State.reset
    Meets .resetAll [] s ∧ Meets .resetPoint [95] s ∧ s.alarm.points[(95 : PointId)].state = .awaitReset ∧
      field [95] 0 1 = 95) ∧
    (Meets .resetPoint [0] State.reset ∧ field [0] 0 1 = 0 ∧
      State.reset.alarm.points[(0 : PointId)].state ≠ .awaitReset) ∧
    (Meets .resetPoint [96] State.reset ∧ 95 < field [96] 0 1) :=
  ⟨⟨meets rfl rfl, meets rfl rfl, by decide +kernel⟩, ⟨meets rfl rfl, by decide +kernel⟩, ⟨meets rfl rfl, by decide⟩⟩

theorem witness_ReminderBringsThePointBack :
    let s := put 95 { enabled := true, reminderMinutes := 1 } { state := .standing, reminder := some 60000 } (at_ 60000 State.reset)
    s.alarm.points[(95 : PointId)].state = .standing ∧ s.alarm.points[(95 : PointId)].reminder = some 60000 ∧
      timeLeft s.alarm.journal.elapsed 60000 = 0 := by decide +kernel

/-- A table in order; a first entry, of 1 minute; and a replacement of 1440. -/
theorem witness_ShelvePointAddsOrReplacesAnEntry :
    (s20.alarm.shelf.map fun m => timeLeft s20.alarm.journal.elapsed m.expiry).Pairwise (· ≤ ·) ∧
    (let s := put 95 { enabled := true } { state := .idle } State.reset
    Meets .shelvePoint [95, 0, 1] s ∧ field [95, 0, 1] 0 1 = 95 ∧ field [95, 0, 1] 1 2 = 1 ∧
      s.alarm.points[(95 : PointId)].state = .idle ∧ s.alarm.shelf.length < 16) ∧
    (let s := put 0 { enabled := true } { state := .shelved } State.reset
    Meets .shelvePoint [0, 5, 160] s ∧ field [0, 5, 160] 1 2 = 1440 ∧ s.alarm.points[(0 : PointId)].state = .shelved) :=
  ⟨by decide +kernel, ⟨meets rfl rfl, by decide +kernel⟩, ⟨meets rfl rfl, by decide +kernel⟩⟩

theorem witness_ShelvedPointsComeBack :
    (let s := put 95 { enabled := true } { state := .shelved } State.reset
    Meets .unshelvePoint [95] s ∧ field [95] 0 1 = 95 ∧ s.alarm.points[(95 : PointId)].state = .shelved) ∧
    (Meets .unshelvePoint [0] State.reset ∧ State.reset.alarm.points[(0 : PointId)].state ≠ .shelved) ∧
    (Meets .unshelvePoint [96] State.reset ∧ 95 < field [96] 0 1) ∧
    ((at_ 600000 s20).alarm.shelf = ⟨21, .link .a, 10, 600000⟩ :: [⟨20, .link .a, 30, 1800000⟩, ⟨22, .link .b, 30, 1800000⟩] ∧
      (at_ 600000 s20).alarm.points[(21 : PointId)].state = .shelved ∧ timeLeft 600000 600000 = 0) ∧
    ((at_ 60000 s70).alarm.chatter[(70 : PointId)].window = some 60000 ∧ timeLeft 60000 60000 = 0) := by
  refine ⟨⟨meets rfl rfl, ?_⟩, ⟨meets rfl rfl, ?_⟩, ⟨meets rfl rfl, ?_⟩, ?_, ?_⟩ <;> decide +kernel

/-- The state with these two channels. -/
def sounding (c0 c1 : Channel) : State :=
  { State.reset with alarm := { State.reset.alarm with sounder := { ch0 := c0, ch1 := c1 } } }

theorem witness_ChirpIsPlacedByOneRule :
    (Meets .chirp [] (sounding { mode := .chirp } {})) ∧ (Meets .chirp [] (sounding {} { mode := .chirp })) ∧
    (Meets .chirp [] (sounding {} {}) ∧ (sounding {} {}).alarm.sounder.ch1.mode = .idle) ∧
    (Meets .chirp [] (sounding {} { mode := .test }) ∧
      (sounding {} { mode := .test }).alarm.sounder.ch1.mode = .test) :=
  ⟨meets rfl rfl, meets rfl rfl, ⟨meets rfl rfl, rfl⟩, ⟨meets rfl rfl, rfl⟩⟩

/-- A point that claims level 3 already, one whose claim empties the list, and one that joins a list of others. -/
theorem witness_AssignmentBringsChannelsToTheirTargets :
    sounder3.claimLevel 81 = some .urgent ∧ sounder3.claimLevel 80 ≠ none ∧ sounder3.claimLevel 95 ≠ some .low := by
  decide +kernel

/-- Each timer of a channel due at elapsed count 0, in each phase; a loudness step up that ends, and one down. -/
theorem witness_ChannelTimersExpire :
    timeLeft 0 0 = 0 ∧
    (let c : Channel := { mode := .level .low, copy := .level ⟨800, 0, 500, 0, 14, 15, 5⟩, phaseOn := true }
    c.mode ≠ .idle ∧ c.phaseOn = true ∧ c.held = none ∧ c.pitchHz = c.pitchHz) ∧
    (let c : Channel := { mode := .level .low, copy := .level ⟨200, 0, 500, 0, 14, 15, 5⟩, phaseOn := true, held := some (14, 7) }
    c.mode ≠ .idle ∧ c.phaseOn = true ∧ c.held = some (14, 7)) ∧
    ({} : Channel).mode = .idle ∧ ({ mode := .test } : Channel).phaseOn = false ∧
    (let c : Channel := { copy := .level ⟨800, 600, 500, 1500, 6, 6, 0⟩, phaseOn := true, cadence := some 0 }
    c.cadence = some 0 ∧ c.phaseOn = true ∧ c.copy.cadence.2.1 ≠ 0) ∧
    (let c : Channel := { copy := .level ⟨800, 600, 500, 0, 6, 6, 0⟩, phaseOn := true, cadence := some 0 }
    c.copy.cadence.2.1 = 0 ∧ c.copy.cadence.2.2 = true) ∧
    (let c : Channel := { copy := .level ⟨800, 0, 500, 0, 14, 15, 5⟩, loudness := 14, escalation := some 0 }
    c.copy = .level ⟨800, 0, 500, 0, 14, 15, 5⟩ ∧ c.escalation = some 0) ∧
    (let c : Channel := { mode := .chirp, chirpTimer := some 0 }
    c.chirpTimer = some 0) := by decide +kernel

theorem witness_TestSetChangesAreJournaledAndSounded :
    ({} : TestSet).active = false ∧ (⟨true, false, false⟩ : TestSet).active = true ∧
    (⟨true, false, false⟩ : TestSet).active = (⟨true, true, false⟩ : TestSet).active := by decide

/-- Link A in the test set, its timer due. -/
def testing : State := { State.reset with panel := { State.reset.panel with testSet := ⟨false, true, false⟩, testTimerA := some 0 } }

theorem witness_MessageTestsBeginAndEnd :
    (Meets .testBegin [1] State.reset ∧ field [1] 0 1 = 1) ∧ (Meets .testBegin [60] testing ∧ field [60] 0 1 = 60) ∧
    (Meets .testBegin [0] State.reset ∧ field [0] 0 1 = 0) ∧ (Meets .testBegin [61] State.reset ∧ 60 < field [61] 0 1) ∧
    (Meets .testEnd [] testing ∧ testing.panel.testSet.hasLink .a = true) ∧
    (Meets .testEnd [] State.reset ∧ State.reset.panel.testSet.hasLink .a = false) ∧
    (testing.panel.testTimer .a = some 0 ∧ timeLeft testing.alarm.journal.elapsed 0 = 0) := by
  refine ⟨⟨meets rfl rfl, ?_⟩, ⟨meets rfl rfl, ?_⟩, ⟨meets rfl rfl, ?_⟩, ⟨meets rfl rfl, ?_⟩, ⟨meets rfl rfl, ?_⟩,
    ⟨meets rfl rfl, ?_⟩, ?_⟩ <;> decide +kernel

/-- The TEST key's qualifier with its steady timer due: a press, a release, and a level that agrees; locked and not. -/
theorem witness_KeysAreQualifiedAndAct :
    timeLeft 0 0 = 0 ∧
    Timer.due (at_ 1 State.reset).alarm.journal.elapsed ((at_ 1 State.reset).keyLine .test).sample = true ∧
    ((at_ 1 State.reset).panel.key .test).raw = .high ∧ ((at_ 1 State.reset).panel.key .test).raw ≠ .low ∧
    (let q : KeyQualifier := ⟨.high, false, some 0⟩
    q.raw = .low ↔ q.pressed = true) ∧
    (let q : KeyQualifier := ⟨.low, false, some 0⟩
    q.raw = .low ∧ q.pressed = false ∧ ({ lockTest := true } : GlobalConfig).lock .test = true ∧
      ({} : GlobalConfig).lock .test = false) ∧
    (let q : KeyQualifier := ⟨.high, true, some 0⟩
    q.raw = .high ∧ q.pressed = true) := by decide +kernel

theorem witness_SetClockLoadsTheClock : Meets .setClock [255, 255, 255, 255, 255, 255] State.reset := meets rfl rfl

/-- A full ring whose oldest record is number 1, and a stream on it. -/
theorem witness_AppendTakesTheRecordWhole :
    Journal.reset.ring.length < 1024 ∧
    (let j : Journal := { Journal.reset with ring := startColdRecord :: List.replicate 1023 startColdRecord, streamA := ⟨true, 1, 0, none⟩ }
    j.ring = startColdRecord :: List.replicate 1023 startColdRecord ∧ 1024 ≤ j.ring.length ∧
      (j.stream .a).subscribed = true ∧ (j.stream .a).cursor = startColdRecord.seq) := by
  refine ⟨by decide, rfl, ?_, rfl, rfl⟩
  rw [List.length_cons, List.length_replicate]

theorem witness_SubscribeSetsTheStream :
    (Meets .subscribe [3, 0, 0, 0, 0, 0] State.reset ∧ field [3, 0, 0, 0, 0, 0] 0 1 = 3) ∧
    (Meets .subscribe [2, 0, 0, 0, 1, 65] State.reset ∧ field [2, 0, 0, 0, 1, 65] 0 1 = 2 ∧
      field [2, 0, 0, 0, 1, 65] 5 1 = 65) ∧
    (Meets .subscribe [0, 0, 0, 0, 0, 64] State.reset ∧ field [0, 0, 0, 0, 0, 64] 0 1 = 0 ∧
      field [0, 0, 0, 0, 0, 64] 5 1 = 64) ∧
    (Meets .subscribe [1, 0, 0, 0, 0, 0] State.reset ∧ field [1, 0, 0, 0, 0, 0] 0 1 = 1 ∧
      State.reset.alarm.journal.ring = startColdRecord :: []) ∧
    (Meets .subscribe [2, 0, 0, 0, 0, 0] State.reset ∧ field [2, 0, 0, 0, 0, 0] 1 4 = 0) ∧
    (Meets .subscribe [2, 0, 0, 0, 1, 0] State.reset ∧ field [2, 0, 0, 0, 1, 0] 1 4 = 1 ∧
      seqSteps 1 State.reset.alarm.journal.nextSeq = State.reset.alarm.journal.ring.length) ∧
    (Meets .subscribe [2, 128, 0, 0, 2, 0] State.reset ∧ field [2, 128, 0, 0, 2, 0] 1 4 = 2147483650 ∧
      seqSteps 2147483650 State.reset.alarm.journal.nextSeq = 2147483647) ∧
    (Meets .subscribe [2, 128, 0, 0, 1, 0] State.reset ∧ field [2, 128, 0, 0, 1, 0] 1 4 = 2147483649 ∧
      seqSteps 2147483649 State.reset.alarm.journal.nextSeq = 2147483648) := by
  refine ⟨⟨meets rfl rfl, ?_⟩, ⟨meets rfl rfl, ?_⟩, ⟨meets rfl rfl, ?_⟩, ⟨meets rfl rfl, ?_⟩, ⟨meets rfl rfl, ?_⟩,
    ⟨meets rfl rfl, ?_⟩, ⟨meets rfl rfl, ?_⟩, ⟨meets rfl rfl, ?_⟩⟩ <;> decide +kernel

/-- Link A subscribed, with a credit. -/
def subscribed : State := { State.reset with alarm := { State.reset.alarm with journal := { Journal.reset with streamA := ⟨true, 2, 1, none⟩ } } }

theorem witness_GrantCreditsAndUnsubscribe :
    (Meets .grantCredits [64] subscribed ∧ field [64] 0 1 = 64 ∧
      (subscribed.alarm.journal.stream .a).subscribed = true) ∧
    (Meets .grantCredits [0] subscribed ∧ field [0] 0 1 = 0) ∧ (Meets .grantCredits [65] subscribed ∧
      64 < field [65] 0 1) ∧
    (Meets .grantCredits [1] State.reset ∧ field [1] 0 1 = 1 ∧
      (State.reset.alarm.journal.stream .a).subscribed = false) ∧
    Meets .unsubscribe [] subscribed :=
  ⟨⟨meets rfl rfl, by decide⟩, ⟨meets rfl rfl, by decide⟩, ⟨meets rfl rfl, by decide⟩, ⟨meets rfl rfl, by decide⟩, meets rfl rfl⟩

/-- Link B holds session 255. -/
def heldByB : State := { State.reset with manager := ⟨.running, some .b, 255, 255, some {}, none, none⟩ }

theorem witness_SessionsOpenAndClose :
    (Meets .openSession [] State.reset ∧ State.reset.manager.holder = none) ∧
    (Meets .openSession [] (holding {} State.reset) ∧ (holding {} State.reset).manager.holder = some .a) ∧
    (Meets .openSession [] heldByB ∧ heldByB.manager.holder = some (otherLink .a)) ∧
    Meets .closeSession [] (holding {} State.reset) ∧ (Meets .closeSession [] heldByB ∧
      heldByB.manager.holder ≠ some .a) :=
  ⟨⟨meets rfl rfl, rfl⟩, ⟨meets rfl rfl, rfl⟩, ⟨meets rfl rfl, rfl⟩, meets rfl rfl, ⟨meets rfl rfl, by decide⟩⟩

/-- The last name of each set, each field at an end of its table. -/
theorem witness_StageRequestsReplaceOneRecord :
    (holding {} State.reset).manager.holder = some .a ∧ (holding {} State.reset).manager.staging = some {} ∧
    (Meets .stagePoint [95, 1, 2, 3, 28, 255, 95, 15, 240, 240, 255] (holding {} State.reset) ∧
      fits pointTable [1, 2, 3, 28, 255, 95, 15, 240, 240, 255]) ∧
    (Meets .stageLine [23, 1, 64, 1] (holding {} State.reset) ∧ fits lineTable [1, 64, 1]) ∧
    (Meets .stageTone [4, 0, 200, 0, 0, 0, 50, 0, 0, 15, 0, 0, 0] (holding {} State.reset) ∧ profile? 4 = some .test ∧
      fits (toneTable .test) [0, 200, 0, 0, 0, 50, 0, 0, 15, 0, 0, 0]) ∧
    (Meets .stageRelay [2, 3] (holding {} State.reset) ∧ field [2, 3] 0 1 = 2 ∧ field [2, 3] 1 1 = 3 ∧
      fits relayTable [3]) ∧
    (Meets .stageLink [1, 2, 60] (holding {} State.reset) ∧ fits linkTable [2, 60]) ∧
    (Meets .stageGlobal [2, 88, 1, 1, 1, 1, 1, 1] (holding {} State.reset) ∧
      fits globalTable [2, 88, 1, 1, 1, 1, 1, 1]) := by
  refine ⟨rfl, rfl, ⟨meets rfl rfl, ?_⟩, ⟨meets rfl rfl, ?_⟩, ⟨meets rfl rfl, ?_⟩, ⟨meets rfl rfl, ?_⟩, ⟨meets rfl rfl, ?_⟩,
    ⟨meets rfl rfl, ?_⟩⟩ <;> unfold fits <;> decide +kernel

theorem witness_StageRequestsRefuseInOrder :
    (Meets .stageRelay [0, 0] State.reset ∧ State.reset.manager.holder ≠ some .a) ∧
    (Meets .stageRelay [3, 0] (holding {} State.reset) ∧ 3 ≤ field [3, 0] 0 1) ∧
    (Meets .stageLine [23, 2, 1, 1] (holding {} State.reset) ∧ firstOut lineTable [2, 1, 1] 0 2) ∧
    (Meets .stageLine [23, 1, 64, 65] (holding {} State.reset) ∧ firstOut lineTable [1, 64, 65] 2 65) ∧
    (Meets .stagePoint [95, 1, 2, 3, 28, 255, 95, 1, 1, 0, 0] (holding {} State.reset) ∧
      firstOut pointTable [1, 2, 3, 28, 255, 95, 1, 1, 0, 0] 6 1) ∧
    (Meets .stageRelay [2, 4] (holding {} State.reset) ∧ firstOut relayTable [4] 0 4) ∧
    (Meets .stageLink [1, 2, 61] (holding {} State.reset) ∧ firstOut linkTable [2, 61] 1 61) ∧
    (Meets .stageTone [3, 0, 200, 0, 19, 15, 0, 0, 0, 0, 0, 0, 0] (holding {} State.reset) ∧ profile? 3 = some .chirp ∧
      firstOut (toneTable .chirp) [0, 200, 0, 19, 15, 0, 0, 0, 0, 0, 0, 0] 1 19) ∧
    (Meets .stageGlobal [2, 89, 0, 0, 0, 0, 0, 0] (holding {} State.reset) ∧
      firstOut globalTable [2, 89, 0, 0, 0, 0, 0, 0] 0 601) := by
  refine ⟨⟨meets rfl rfl, ?_⟩, ⟨meets rfl rfl, ?_⟩, ⟨meets rfl rfl, ?_⟩, ⟨meets rfl rfl, ?_⟩, ⟨meets rfl rfl, ?_⟩,
    ⟨meets rfl rfl, ?_⟩, ⟨meets rfl rfl, ?_⟩, ⟨meets rfl rfl, ?_, ?_⟩, ⟨meets rfl rfl, ?_⟩⟩
  · decide
  · decide
  · exact ⟨_, rfl, by decide +kernel, by decide, by unfold fits; decide +kernel⟩
  · exact ⟨_, rfl, by decide +kernel, by decide, by unfold fits; decide +kernel⟩
  · exact ⟨_, rfl, by decide +kernel, by decide, by unfold fits; decide +kernel⟩
  · exact ⟨_, rfl, by decide +kernel, by decide, by unfold fits; decide +kernel⟩
  · exact ⟨_, rfl, by decide +kernel, by decide, by unfold fits; decide +kernel⟩
  · rfl
  · exact ⟨_, rfl, by decide +kernel, by decide, by unfold fits; decide +kernel⟩
  · exact ⟨_, rfl, by decide +kernel, by decide, by unfold fits; decide +kernel⟩

theorem witness_DiscardMakesAFreshCopy :
    Meets .discard [] (holding c94 State.reset) ∧ (holding c94 State.reset).manager.staging = some c94 ∧
    Meets .discard [] State.reset ∧ State.reset.manager.holder ≠ some .a :=
  ⟨meets rfl rfl, rfl, meets rfl rfl, by decide⟩

/-- A staging that feeds two enabled points from IN0. -/
def twice : Configuration :=
  { points := ((Vector.replicate 96 {}).set 0 { enabled := true, source := .line 0 }).set 95 { enabled := true, source := .line 0 } }

theorem witness_CommitsAreCheckedFirst :
    Meets .commit [] (holding {} State.reset) ∧ (holding {} State.reset).manager.holder = some .a ∧
    Meets .commit [] State.reset ∧ State.reset.manager.holder ≠ some .a ∧
    s94done.manager.check = some 0 ∧ timeLeft s94done.alarm.journal.elapsed 0 = 0 ∧ s94done.manager.holder = some .a ∧
    (s94done.link .a).executing = some (frame .commit []) ∧ twice.check .a = .failed 1 0 :=
  ⟨meets rfl rfl, rfl, meets rfl rfl, by decide +kernel⟩

/-- The default configuration with one point record. -/
def one (p : PointId) (c : PointConfig) : Configuration := { points := (Vector.replicate 96 {}).set p c }

theorem one_others {p q : PointId} {c : PointConfig} (h : q ≠ p) : (one p c).points[q] = {} := by
  have h' : p.val ≠ q.val := fun e => h (Fin.ext e.symm)
  simp [one, Vector.getElem_set_ne _ _ h']

/-- Each condition broken at point 0 and nowhere before it, the conditions before it met; and the defaults, which pass. -/
theorem witness_CommitCheckTestsFiveConditions :
    (1 < allPoints.countP (fun p => twice.points[p].enabled && decide (twice.points[p].source = .line 0)) ∧
      ∀ m : LineId, ¬m < 0) ∧
    (one 0 { suppressor := some 0 }).points[(0 : PointId)].suppressor = some 0 ∧
    ((∀ p : PointId, (one 0 { sequence := .notice, group := some 0 }).points[p].suppressor = none) ∧
      (one 0 { sequence := .notice, group := some 0 }).points[(0 : PointId)].group = some 0) ∧
    ((∀ p : PointId, (one 0 { sequence := .notice, reminderMinutes := 1 }).points[p].group = none) ∧
      (one 0 { sequence := .notice, reminderMinutes := 1 }).points[(0 : PointId)].reminderMinutes ≠ 0) ∧
    (∀ p : PointId, ({} : Configuration).points[p].sequence ≠ .notice) ∧
    (({ linkA := { authority := .observe } } : Configuration).link .a).authority ≠ .configure := by decide +kernel

/-- Point 95 enabled and fed from `src`, with Link A's assertion held on it. -/
def heldAt95 (src : Source) (s : State) : State :=
  { s with
    active := { s.active with points := s.active.points.set 95 { enabled := true, source := src } }
    conditions := s.conditions.set 95 { s.conditions[95] with byA := true } }

theorem heldAt95_by (src : Source) (s : State) : (heldAt95 src s).conditions[(95 : PointId)].by .a = true := by
  simp [heldAt95, Condition.by]

theorem heldAt95_source (src : Source) (s : State) : (heldAt95 src s).active.points[(95 : PointId)].source = src := by
  simp [heldAt95]

/-- 9.4, where one shelved point is disabled and the others keep their sources; the same with a point fed anew from the
last line and the shelved point kept; and with a point whose new source still reads the assertion held on it, and one whose
new source does not. -/
theorem witness_PassedCommitAppliesTheStaging :
    s94done.manager.check = some 0 ∧ timeLeft s94done.alarm.journal.elapsed 0 = 0 ∧ s94done.manager.holder = some .a ∧
    s94done.manager.staging = some c94 ∧ (s94done.link .a).executing = some (frame .commit []) ∧
      c94.check .a = .passed ∧
    s94.active.points[(14 : PointId)].enabled = true ∧ c94.points[(14 : PointId)].enabled = false ∧
    (let c : Configuration := { s94.active with points := s94.active.points.set 95 { enabled := true, source := .line 23 } }
    (holding c s94done).manager.staging = some c ∧ c.check .a = .passed ∧
      c.points[(95 : PointId)].source ≠ s94.active.points[(95 : PointId)].source ∧
      c.points[(14 : PointId)].enabled = true ∧ s94.alarm.points[(14 : PointId)].state = .shelved) ∧
    ∀ src, src = .msgAny ∨ src = .msg .b →
      (let s := heldAt95 (.msg .a) s94done
      let c := (heldAt95 src s94done).active
      (holding c s).manager.staging = some c ∧ c.check .a = .passed ∧
        c.points[(95 : PointId)].source ≠ s.active.points[(95 : PointId)].source ∧
        s.conditions[(95 : PointId)].by .a = true) :=
  ⟨by decide +kernel, by decide +kernel, by decide +kernel, by decide +kernel, by decide +kernel, by decide +kernel,
    by decide +kernel, by decide +kernel, by decide +kernel, fun src h => by
      rcases h with rfl | rfl <;> exact ⟨rfl, by decide +kernel, by decide +kernel, heldAt95_by ..⟩⟩

/-- The law of the session lock, with no session. -/
theorem free_sessionLaw (s : State) (h : s.manager = {}) (ha : s.linkA.executing = none) (hb : s.linkB.executing = none) :
    s.SessionLaw := by
  refine ⟨by rw [h]; rfl, by rw [h]; decide, by rw [h]; exact nofun, fun l => ?_, by rw [h]; exact nofun⟩
  cases l <;> simp [Part.link, ha, hb, h]

/-- Link B holds session 9, its Commit in execution with the check running. -/
def checkingB (s : State) : State :=
  { s with
    manager := ⟨.running, some .b, 9, 9, some {}, some 30, none⟩
    linkB := { s.linkB with executing := some (frame .commit []) } }

/-- With no check running nothing is abandoned; Link B's check is, for a Restart from Link A. -/
theorem stops_none {s : State} (h : s.manager.check = none) (f : Frame) : Part.StopsCheck .a (s.begin .a f) (s.begin .a f) :=
  .inl ⟨h, rfl⟩

theorem stops_running (s : State) (f : Frame) : ∃ c, Part.StopsCheck .a ((checkingB s).begin .a f) c :=
  ⟨_, .inr ⟨.b, frame .commit [], 30, by decide, rfl, rfl, rfl, rfl⟩⟩

/-- With and without a check that runs. -/
theorem witness_RestartWarmRebuildsFromTheConditions :
    (Meets .restart [0] (checkingB State.reset) ∧ (asked .restart [0] (checkingB State.reset)).SessionLaw ∧
      (∃ c, Part.StopsCheck .a ((checkingB (asked .restart [0] State.reset)).begin .a (frame .restart [0])) c) ∧
      ∀ p : PointId, State.reset.active.points[p].suppressor ≠ some p) ∧
    let s := put 0 { enabled := true } { state := .standing, abnormal := true } (put 95 { enabled := true } { state := .idle } State.reset)
    Meets .restart [0] s ∧ (asked .restart [0] s).SessionLaw ∧ field [0] 0 1 = 0 ∧ s.manager.check = none ∧
      s.alarm.points[(0 : PointId)].abnormal = true ∧ s.alarm.points[(95 : PointId)].abnormal = false ∧
      s.alarm.points[(1 : PointId)].state = .disabled ∧ (∀ p : PointId, s.active.points[p].suppressor ≠ some p) ∧
      Part.StopsCheck .a ((asked .restart [0] s).begin .a (frame .restart [0])) ((asked .restart [0] s).begin .a (frame .restart [0])) :=
  ⟨⟨meets rfl rfl, ⟨rfl, by decide, fun _ => nofun, fun l => by cases l <;> rfl, by decide⟩, stops_running _ _,
      by decide +kernel⟩,
    meets rfl rfl, free_sessionLaw _ rfl rfl rfl, by decide +kernel, by decide +kernel, by decide +kernel,
    by decide +kernel, by decide +kernel, by decide +kernel, stops_none rfl _⟩

theorem witness_RestartColdAndAbandonedChecks :
    (Meets .restart [1] State.reset ∧ field [1] 0 1 = 1 ∧ State.reset.manager.drain = none ∧
      Part.StopsCheck .a ((asked .restart [1] State.reset).begin .a (frame .restart [1]))
        ((asked .restart [1] State.reset).begin .a (frame .restart [1]))) ∧
    (Meets .restart [1] (checkingB State.reset) ∧ (checkingB State.reset).manager.drain = none ∧
      ∃ c, Part.StopsCheck .a ((checkingB (asked .restart [1] State.reset)).begin .a (frame .restart [1])) c) ∧
    (let s : State := { State.reset with manager := { State.reset.manager with drain := some .b } }
    Meets .restart [1] s ∧ s.manager.drain = some .b ∧
      Part.StopsCheck .a ((asked .restart [1] s).begin .a (frame .restart [1]))
        ((asked .restart [1] s).begin .a (frame .restart [1]))) ∧
    (Meets .restart [0] State.reset ∧ field [0] 0 1 = 0) ∧
    (Meets .restart [2] State.reset ∧ 1 < field [2] 0 1) :=
  ⟨⟨meets rfl rfl, by decide, rfl, stops_none rfl _⟩, ⟨meets rfl rfl, rfl, stops_running _ _⟩,
    ⟨meets rfl rfl, rfl, stops_none rfl _⟩, ⟨meets rfl rfl, by decide⟩, ⟨meets rfl rfl, by decide⟩⟩

theorem witness_HelloIdentifiesAndDropsTheOldSelf :
    (Meets .hello [1, 0, 0] State.reset ∧ field [1, 0, 0] 0 1 = 1 ∧ field [1, 0, 0] 1 2 = (State.reset.link .a).epoch) ∧
    (Meets .hello [2, 0, 0] State.reset ∧ field [2, 0, 0] 0 1 ≠ 1) ∧
    (Meets .hello [1, 255, 255] (holding {} State.reset) ∧ field [1, 255, 255] 1 2 = 65535 ∧
      65535 ≠ (State.reset.link .a).epoch) ∧
    ∀ src : Source, Meets .hello [1, 255, 255] (heldAt95 src State.reset) ∧
      (heldAt95 src State.reset).active.points[(95 : PointId)].source = src ∧
      (heldAt95 src State.reset).conditions[(95 : PointId)].by .a = true :=
  ⟨⟨meets rfl rfl, by decide⟩, ⟨meets rfl rfl, by decide⟩, ⟨meets rfl rfl, by decide⟩,
    fun src => ⟨meets rfl rfl, heldAt95_source .., heldAt95_by ..⟩⟩

/-- Every framer state with its timer stopped, the characters at the ends of their ranges, and a gap timer due with no
character waiting and with one. -/
theorem witness_FramerTakesCharactersAndGaps :
    ({} : Link).gapTimer = none ∧ ({} : Link).framer = .hunt ∧ (0xA4 : Byte) ≠ 0xA5 ∧
    2 ≤ (2 : Byte).toNat ∧ (242 : Byte).toNat ≤ 242 ∧ (1 : Byte).toNat < 2 ∧ 242 < (243 : Byte).toNat ∧
    ([] : List Byte).length + 1 < 2 ∧ 2 ≤ ([1] : List Byte).length + 1 ∧ Framer.length ≠ .hunt ∧
    (let k : Link := { framer := .check [1, 2] none, gapTimer := some 10 }
    k.gapTimer = some 10 ∧ pastDeadline 10 10 = false ∧ timeLeft 10 10 = 0 ∧ timeLeft 11 10 = 0) ∧
    (∀ c, Instr.receiveCharacter .a c ∉ State.reset.pending) ∧
    Instr.receiveCharacter .a .broken ∈ (State.reset.withCommand (.receiveCharacter .a .broken)).pending := by
  refine ⟨by decide, by decide, by decide, by decide, by decide, by decide, by decide, by decide, by decide, by decide,
    by decide +kernel, nofun, List.mem_cons_self⟩

/-- The end of a Ping under tag 1 with its CRC, and a wrong one; 3 and 4 frames waiting; 7 and 8 places taken. -/
theorem witness_CompleteFramesAreCheckedAndQueued :
    (let k : Link := { framer := .check [1, 2] (some ((crcOf [2, 1, 2]).extractLsb' 8 8)) }
    k.gapTimer = none ∧
      crcOf (BitVec.ofNat 8 (([] : List Byte).length + 2) :: 1 :: 2 :: []) =
        (crcOf [2, 1, 2]).extractLsb' 8 8 ++ (crcOf [2, 1, 2]).setWidth 8 ∧
      crcOf [2, 1, 2] ≠ (crcOf [2, 1, 2]).extractLsb' 8 8 ++ ((crcOf [2, 1, 2]).setWidth 8 + 1)) ∧
    ({ waiting := List.replicate 3 (frame .ping []) } : Link).waiting.length < 4 ∧
    (let k : Link := { waiting := List.replicate 4 (frame .ping []), replies := List.replicate 7 ⟨1, 2, okAnswer []⟩ }
    4 ≤ k.waiting.length ∧ k.placesTaken < 8) ∧
    (let k : Link := { waiting := List.replicate 4 (frame .ping []), replies := List.replicate 7 ⟨1, 2, okAnswer []⟩, executing := some (frame .commit []) }
    8 ≤ k.placesTaken) := by decide +kernel

theorem witness_AcceptedFramesKeepTheLinkLive :
    ({} : Link).state = .down ∧ ({ state := .live } : Link).state = .live ∧
    (let s := put 95 { enabled := true, source := .silent .a } { state := .alerting, abnormal := true }
      { State.reset with linkA := { State.reset.linkA with state := .silent } }
    (s.link .a).state = .silent ∧ s.active.points[(95 : PointId)].source = .silent .a ∧
      s.active.points[(0 : PointId)].source ≠ .silent .a) := by decide +kernel

/-- Link A LIVE with its supervision due, and a point that reads its silence; and Link B the same while it holds a session
with its check running. -/
theorem witness_SilenceHasItsEffectsInOrder :
    (let s := put 95 { enabled := true, source := .silent .a } { state := .idle }
      { State.reset with linkA := { State.reset.linkA with state := .live, heartbeat := 60, supervision := some 0 } }
    s.SessionLaw ∧ (s.link .a).state = .live ∧ (s.link .a).supervision = some 0 ∧
      timeLeft s.alarm.journal.elapsed 0 = 0 ∧
      s.active.points[(95 : PointId)].source = .silent .a ∧ s.active.points[(0 : PointId)].source ≠ .silent .a) ∧
    (let s := checkingB { State.reset with linkB := { State.reset.linkB with state := .live, supervision := some 0 } }
    s.SessionLaw ∧ (s.link .b).state = .live ∧ (s.link .b).supervision = some 0 ∧ s.manager.holder = some .b ∧
      timeLeft s.alarm.journal.elapsed 0 = 0) :=
  ⟨⟨free_sessionLaw _ rfl rfl rfl, by decide +kernel⟩,
    ⟨rfl, by decide, fun _ => nofun, fun l => by cases l <;> rfl, by decide⟩, rfl, rfl, rfl, rfl⟩

/-! ### The laws hold together in a state that no reset leaves -/

/-- A HOLD point of group 1 in ALERTING, marked and claiming level 2, with everything that goes with it. -/
def alarmed : State :=
  let s := put 12 c12 { state := .alerting, abnormal := true, occurrence := 1, mark := true, entryStamp := 1 } State.reset
  { s with
    manager := { s.manager with mode := .running }
    lines := s.lines.set 5 { abnormal := true }
    alarm := { s.alarm with
      groups := s.alarm.groups.set 1 ⟨false, some 12, 1⟩
      sounder := s.alarm.sounder.assign 0 {} } }

/-- A step of that state. -/
theorem alarmed_step : step alarmed = .next { alarmed with toPart := alarmed.endCount.tick } :=
  idle_step rfl (by decide +kernel)

theorem witness_StepKeepsTheJournalLaw : alarmed.alarm.journal.Law := startCold_law {} (fun _ => rfl) rfl (by decide) rfl

theorem witness_StepKeepsQueuesSessionAndCopies : alarmed.QueueLaw ∧ alarmed.SessionLaw ∧ alarmed.CopyLaw := by
  refine ⟨⟨⟨by decide, by decide⟩, ⟨by decide, by decide⟩⟩, ⟨rfl, by decide, nofun, fun l => by cases l <;> rfl, nofun⟩,
    ⟨by decide +kernel, rfl, rfl, ⟨rfl, rfl⟩, ⟨rfl, rfl⟩⟩⟩

theorem witness_StepKeepsTheConfigurationLaw : alarmed.ConfigLaw := by
  refine ⟨⟨by decide +kernel, by decide +kernel, fun l => ?_, by decide, by decide, fun l => ?_, by decide⟩, nofun,
    by decide +kernel, nofun⟩
  · cases l <;> decide
  · cases l <;> decide

theorem alarmed_alarmLaw : alarmed.AlarmLaw := by
  refine ⟨?_, ?_, ⟨by decide, by decide, ?_⟩, ?_, ⟨by decide +kernel, ?_⟩, ⟨nofun, nofun, by decide, fun _ => ⟨⟨?_, by decide⟩, ⟨?_, by decide⟩⟩⟩⟩
  · unfold Alarm.EnabledLaw; decide +kernel
  · unfold Alarm.GroupLaw; decide +kernel
  · decide +kernel
  · unfold Alarm.LampLaw; decide +kernel
  · decide +kernel
  · intro l; cases l <;> decide +kernel
  · intro l; cases l <;> decide +kernel

theorem witness_StepKeepsTheAlarmLaws : alarmed.AlarmLaw ∧ alarmed.ConfigLaw ∧ alarmed.alarm.ShelfOrderLaw ∧
    alarmed.ResolverLaw ∧ alarmed.RelayLaw :=
  ⟨alarmed_alarmLaw, witness_StepKeepsTheConfigurationLaw, ⟨.nil, nofun⟩,
    ⟨by decide +kernel, by decide +kernel, fun p l => by cases l <;> (revert p; decide +kernel)⟩,
    by unfold Part.RelayLaw; decide +kernel⟩

theorem witness_StepKeepsThePointLaws : alarmed.AlarmLaw ∧ alarmed.alarm.PointLaw alarmed.active ∧
    alarmed.alarm.SequenceLaw alarmed.active := by
  refine ⟨alarmed_alarmLaw, ⟨fun p => ⟨?_, ?_, ?_, ?_, ?_, ?_⟩, by decide +kernel⟩, ⟨?_, ?_, ?_, ?_⟩⟩ <;>
    first | (intro p; revert p; decide +kernel) | (revert p; decide +kernel)

end Sys2Proof.Tests
end

section
/-! SUPPORT. The state after a full reset has every law. -/

namespace Sys2Proof.Machine

@[simp] theorem getElem_replicate_fin {n : Nat} {α : Type} (x : α) (i : Fin n) : (Vector.replicate n x)[i] = x := by
  simp

theorem Journal.reset_law : Journal.reset.Law where
  ring := ⟨by decide, by decide, by unfold isSeq; decide, by unfold isSeq; decide, rfl⟩
  streamA := (Journal.streamLaw_iff ..).mpr (Stream.On.empty _ _)
  streamB := (Journal.streamLaw_iff ..).mpr (Stream.On.empty _ _)

/-- After a reset every point has the default record, and with it every pattern is OFF and no group is active. -/
theorem Part.reset_point (p : PointId) : Part.reset.alarm.points[p] = {} := getElem_replicate_fin ..

theorem Configuration.default_point (p : PointId) : ({} : Configuration).points[p] = {} := getElem_replicate_fin ..

theorem Part.reset_config (p : PointId) : Part.reset.active.points[p] = {} := getElem_replicate_fin ..

theorem Part.reset_condition (p : PointId) : Part.reset.conditions[p] = {} := getElem_replicate_fin ..

theorem Part.reset_groupActive (g : GroupId) : Part.reset.alarm.groupActive Part.reset.active g = false := by
  rw [Bool.eq_false_iff]
  intro h
  obtain ⟨q, -, hq⟩ := (Alarm.groupActive_iff ..).mp h
  rw [Part.reset_point] at hq
  cases hq

theorem Part.reset_alarmLaw : Part.reset.AlarmLaw where
  enabled p := by rw [Part.reset_point, Part.reset_config]; simp
  groups g := by
    rw [Part.reset_groupActive]
    exact congrArg Group.armed (getElem_replicate_fin ..)
  shelf := ⟨by decide, List.nodup_nil, fun p => by rw [Part.reset_point]; exact ⟨nofun, nofun⟩⟩
  lamps p := by rw [Part.reset_point]; exact getElem_replicate_fin ..
  claims := ⟨List.nodup_nil, fun p => by rw [Part.reset_point]; rfl⟩
  channels := ⟨nofun, nofun, nofun, fun _ => ⟨⟨fun _ => ⟨nofun, nofun⟩, nofun⟩, ⟨fun _ => ⟨nofun, nofun⟩, nofun⟩⟩⟩

theorem Part.reset_pointLaw : Part.reset.alarm.PointLaw Part.reset.active where
  each p := by
    rw [Part.reset_point]
    exact ⟨nofun, nofun, fun h => absurd rfl h, Nat.zero_le _, by simp [PointState.active], nofun⟩
  suppressed p h := by rw [Part.reset_point] at h; cases h

theorem Part.reset_sequenceLaw : Part.reset.alarm.SequenceLaw Part.reset.active where
  alerting p h := by rw [Part.reset_point] at h; cases h
  awaitReset p h := by rw [Part.reset_point] at h; cases h
  returned p h := by rw [Part.reset_point] at h; cases h
  notice p _ := by rw [Part.reset_point]

theorem Part.reset_shelfOrderLaw : Part.reset.alarm.ShelfOrderLaw := ⟨.nil, nofun⟩

theorem Part.reset_resolverLaw : Part.reset.ResolverLaw where
  condition p := by rw [Part.reset_condition, Part.reset_config]; rfl
  copy p := by rw [Part.reset_condition, Part.reset_point]
  assertions p l h := by rw [Part.reset_condition] at h; cases l <;> cases h

theorem Part.reset_relayLaw : Part.reset.RelayLaw := fun r => by
  have hr : Part.reset.active.relays[r] = .off := getElem_replicate_fin ..
  rw [Part.relayOn, hr]
  exact getElem_replicate_fin ..

/-! ### The default configuration is sound (R1, R30, R78, R145, R155) -/

theorem Configuration.default_inTables : ({} : Configuration).InTables where
  points p := by rw [Configuration.default_point]; decide
  lines n := by rw [show ({} : Configuration).lines[n] = {} from getElem_replicate_fin ..]; decide
  levels l := by cases l <;> decide
  chirp := by decide
  test := by decide
  links l := by cases l <;> decide
  window := by decide

theorem Configuration.default_checked : ({} : Configuration).c1 = none ∧ ({} : Configuration).c2 = none ∧
    ({} : Configuration).c3 = none ∧ ({} : Configuration).c4 = none := by
  have hfed (n : LineId) : ({} : Configuration).fedBy n = [] := by
    refine List.filter_eq_nil_iff.mpr fun p _ => ?_
    rw [Configuration.default_point]; simp
  refine ⟨List.find?_eq_none.mpr fun n _ => ?_, List.find?_eq_none.mpr fun p _ => ?_,
    List.find?_eq_none.mpr fun p _ => ?_, List.find?_eq_none.mpr fun p _ => ?_⟩
  · rw [hfed]; decide
  · rw [Configuration.badSuppressor, Configuration.default_point]; exact Bool.false_ne_true
  · rw [Configuration.badMember, Configuration.default_point]; exact Bool.false_ne_true
  · rw [Configuration.default_point]; decide

theorem Part.reset_configLaw : Part.reset.ConfigLaw where
  active := Configuration.default_inTables
  staging _ h := nomatch h
  checked := Configuration.default_checked
  unconfigured _ := rfl

theorem Part.reset_copyLaw : Part.reset.CopyLaw where
  lines n := by
    rw [show Part.reset.lines[n] = {} from getElem_replicate_fin ..,
      show Part.reset.active.lines[n] = {} from getElem_replicate_fin ..]
  tones := rfl
  dual := rfl
  linkA := ⟨rfl, rfl⟩
  linkB := ⟨rfl, rfl⟩

theorem Part.reset_sessionLaw : Part.reset.SessionLaw where
  staging := rfl
  id := by decide
  check h := absurd rfl h
  executing l := by cases l <;> rfl
  authority _ h := nomatch h

/-- Settles O5: law by law, from what the reset part holds in each block. -/
theorem resetHasEveryLaw : Obligations.ResetHasEveryLaw :=
  ⟨Journal.reset_law, ⟨by unfold Link.QueueLaw; decide, by unfold Link.QueueLaw; decide⟩, Part.reset_sessionLaw,
    Part.reset_copyLaw, Part.reset_alarmLaw, Part.reset_pointLaw, Part.reset_configLaw, Part.reset_sequenceLaw,
    Part.reset_shelfOrderLaw, Part.reset_resolverLaw, Part.reset_relayLaw⟩

end Sys2Proof.Machine
end


section
/-! SUPPORT. What an operation on alarms is made of, said once: each operation of a command outside commit apply and warm
restart is a run of turns, so that a law of the alarm blocks is proved turn by turn. -/

namespace Sys2Proof.Machine

/-- Point `p` may go to `to_` by an event of its sequence's table: not out of or into DISABLED and SHELVED, into the active
states only from within them, AWAIT_RESET only in HOLD, RETURNED only in FOLLOW (R9, R10, R11). -/
structure Alarm.Leads (c : Configuration) (p : PointId) (to_ : PointState) (a : Alarm) : Prop where
  from_ : ¬a.points[p].state.settled
  unsettled : ¬to_.settled
  notEntered : to_ ≠ .alerting ∧ to_ ≠ .suppressed
  active : to_.active = true → a.points[p].state.active = true
  awaitReset : to_ = .awaitReset → c.points[p].sequence = .hold
  returned : to_ = .returned → c.points[p].sequence = .follow

/-- The minutes a shelving may have: those of a Shelve Point request or the point's chatter shelve minutes (R64, R73). -/
abbrev ShelfEntry.Allowed (c : Configuration) (a : Alarm) (n : ShelfEntry) : Prop :=
  n.expiry = clockAfter a.journal.elapsed (n.minutes * 60000) ∧
    (n.minutes ≤ 1440 ∨ n.minutes = c.points[n.point].chatterShelveMinutes)

/-- One change of the alarm blocks by an operation that reads `e`; the origin its records carry is `o`. -/
inductive Alarm.Turn (e : Env) : Alarm → Alarm → Prop
  | move (a : Alarm) (o : Origin) (p : PointId) (to_ : PointState) (cause : Cause) (h : a.Leads e.config p to_) :
      Turn e a (a.move { e with origin := o } p to_ cause)
  | begin_ (a : Alarm) (o : Origin) (p : PointId) (cause : Cause) (h : ¬a.points[p].state.settled)
      (hab : a.points[p].abnormal = true) : Turn e a (a.newOccurrence { e with origin := o } p cause)
  | release (a : Alarm) (o : Origin) (p : PointId) (h : a.points[p].state = .suppressed) :
      Turn e a (a.enter { e with origin := o } p .release)
  | record (a : Alarm) (b : RecordBody) : Turn e a (a.append b)
  | hush (a : Alarm) (p : PointId) (h : a.points[p].state = .alerting) : Turn e a (a.hush e p)
  | remind (a : Alarm) (o : Origin) (p : PointId) (h : a.points[p].state = .standing) (hr : a.points[p].reminder ≠ none) :
      Turn e a (a.remind { e with origin := o } p)
  | count (a : Alarm) (p : PointId) (c : Chatter) : Turn e a (a.setChatter p c)
  | chirp (a : Alarm) : Turn e a a.chirp
  | shelve (a : Alarm) (o : Origin) (n : ShelfEntry) (cause : Cause) (h : ¬a.points[n.point].state.settled)
      (hl : a.shelf.length < Config.shelfSize) (hn : n.Allowed e.config a) :
      Turn e a (a.shelve { e with origin := o } n cause)
  | extend (a : Alarm) (n : ShelfEntry) (h : a.points[n.point].state = .shelved) (hn : n.Allowed e.config a) :
      Turn e a (a.placeEntry n)
  | unshelve (a : Alarm) (o : Origin) (p : PointId) (cause : Cause)
      (h : a.points[p].state = .shelved ∨ p ∈ a.shelf.map ShelfEntry.point) :
      Turn e a (a.unshelve { e with origin := o } p cause)

/-- Turns one after the other. -/
abbrev Alarm.Turns (e : Env) : Alarm → Alarm → Prop := Relation.ReflTransGen (Alarm.Turn e)

theorem Alarm.Turn.turns {e : Env} {a b : Alarm} (h : Alarm.Turn e a b) : Alarm.Turns e a b := .single h

/-- What every turn keeps, a run of turns keeps. -/
theorem Alarm.Turns.keeps {e : Env} {P : Alarm → Prop} (h : ∀ a b, Alarm.Turn e a b → P a → P b) {a b : Alarm}
    (ht : Alarm.Turns e a b) (ha : P a) : P b := by
  induction ht with
  | refl => exact ha
  | tail _ hbc ih => exact h _ _ hbc ih

/-- A fold of operations, each a run of turns, is a run of turns. -/
theorem Alarm.Turns.foldl {e : Env} {β : Type} {f : Alarm → β → Alarm} (h : ∀ a x, Alarm.Turns e a (f a x)) (xs : List β)
    (a : Alarm) : Alarm.Turns e a (xs.foldl f a) :=
  foldl_keeps (P := Alarm.Turns e a) (fun b x hb => hb.trans (h b x)) xs .refl

/-- The turns of an operation do not depend on the origin it was given. -/
theorem Alarm.Turn.origin {e : Env} {a b : Alarm} (o : Origin) (h : Alarm.Turn { e with origin := o } a b) :
    Alarm.Turn e a b := by
  cases h with
  | release o p h => exact .release a o p h
  | move o p to_ cause h => exact .move a o p to_ cause h
  | begin_ o p cause h hab => exact .begin_ a o p cause h hab
  | record b => exact .record a b
  | hush p h => exact .hush a p h
  | remind o p h hr => exact .remind a o p h hr
  | count p c => exact .count a p c
  | chirp => exact .chirp a
  | shelve o n cause h hl hn => exact .shelve a o n cause h hl hn
  | extend n h hn => exact .extend a n h hn
  | unshelve o p cause h => exact .unshelve a o p cause h

theorem Alarm.Turns.origin {e : Env} {a b : Alarm} (o : Origin) (h : Alarm.Turns { e with origin := o } a b) :
    Alarm.Turns e a b :=
  Relation.ReflTransGen.mono (fun _ _ => Alarm.Turn.origin o) _ _ h

/-! ## The operations as runs of turns -/

section
variable {e : Env} {a : Alarm} {p : PointId}

theorem PointState.not_settled {t : PointState} (h1 : t ≠ .disabled) (h2 : t ≠ .shelved) : ¬t.settled :=
  fun h => h.elim h1 h2

theorem Alarm.stay_turns (e : Env) (p : PointId) (cause : Cause) (a : Alarm) : Alarm.Turns e a (a.stay e p cause) :=
  (Alarm.Turn.record a _).turns

/-- A move from the state `f` of the table to `to_` is a turn. -/
theorem Alarm.move_turns {f to_ : PointState} (hf : a.points[p].state = f) (cause : Cause)
    (ht : to_ = .standing ∨ to_ = .awaitReset ∨ to_ = .returned ∨ to_ = .idle) (h1 : ¬f.settled)
    (h2 : to_.active = true → f.active = true) (h3 : to_ = .awaitReset → e.config.points[p].sequence = .hold)
    (h4 : to_ = .returned → e.config.points[p].sequence = .follow) : Alarm.Turns e a (a.move e p to_ cause) := by
  refine (Alarm.Turn.move a e.origin p to_ cause ⟨?_, ?_, ?_, ?_, h3, h4⟩).turns
  · rw [hf]; exact h1
  · rcases ht with rfl | rfl | rfl | rfl <;> simp [PointState.settled]
  · rcases ht with rfl | rfl | rfl | rfl <;> simp
  · rw [hf]; exact h2

theorem Alarm.newOccurrence_turns {f : PointState} (hf : a.points[p].state = f) (h1 : ¬f.settled)
    (hab : a.points[p].abnormal = true) (cause : Cause) : Alarm.Turns e a (a.newOccurrence e p cause) :=
  (Alarm.Turn.begin_ a e.origin p cause (hf ▸ h1) hab).turns

theorem Alarm.qa_turns (hab : a.points[p].abnormal = true) : Alarm.Turns e a (a.qa e p) := by
  unfold Alarm.qa
  split
  · next h => exact Alarm.newOccurrence_turns h (by simp [PointState.settled]) hab .qa
  · next h _ => exact Alarm.newOccurrence_turns h (by simp [PointState.settled]) hab .qa
  · next h _ => exact Alarm.newOccurrence_turns h (by simp [PointState.settled]) hab .qa
  · exact Alarm.stay_turns e p .qa a

theorem Alarm.qn_turns : Alarm.Turns e a (a.qn e p) := by
  unfold Alarm.qn
  split
  · next h hq =>
    exact Alarm.move_turns h .qn (by simp) (by simp [PointState.settled]) (fun _ => rfl) (fun _ => hq) nofun
  · next h _ => exact Alarm.move_turns h .qn (by simp) (by simp [PointState.settled]) nofun nofun nofun
  · next h _ => exact Alarm.move_turns h .qn (by simp) (by simp [PointState.settled]) nofun nofun nofun
  · next h hq =>
    exact Alarm.move_turns h .qn (by simp) (by simp [PointState.settled]) (fun _ => rfl) nofun (fun _ => hq)
  · next h => exact Alarm.move_turns h .qn (by simp) (by simp [PointState.settled]) nofun nofun nofun
  · exact Alarm.stay_turns e p .qn a

/-- A counted QA on a point neither DISABLED nor SHELVED (R71, R73, R74). -/
theorem Alarm.countQA_turns (h : ¬a.points[p].state.settled) : Alarm.Turns e a (a.countQA e p) := by
  have hl : Alarm.Turns e a (a.limitReached e p) := by
    unfold Alarm.limitReached
    split
    · next hs =>
      exact (Alarm.Turn.shelve a .part (a.newEntry p .chatter e.config.points[p].chatterShelveMinutes) .chatter h hs
        ⟨rfl, .inr rfl⟩).turns
    · exact (Alarm.Turn.count a p {}).turns.tail (.record _ _)
  have hc (c : Chatter) : Alarm.Turns e a
      (if e.config.points[p].chatterLimit ≤ c.count then a.limitReached e p else a.setChatter p c) := by
    split
    · exact hl
    · exact (Alarm.Turn.count a p c).turns
  unfold Alarm.countQA
  simp only
  split
  · exact .refl
  · exact hc _

theorem Alarm.qa_settled {t : PointState} (ht : t.settled) (e : Env) (p q : PointId) (a : Alarm) :
    (a.qa e p).points[q].state = t ↔ a.points[q].state = t := by
  have hn {f : PointState} (hf : a.points[p].state = f) (h1 : ¬f.settled) :
      (a.newOccurrence e p .qa).points[q].state = t ↔ a.points[q].state = t := by
    rw [Alarm.newOccurrence_settled ht]
    refine ⟨And.right, fun h => ⟨?_, h⟩⟩
    rintro rfl
    exact h1 (by rw [← hf, h]; exact ht)
  unfold Alarm.qa
  split
  · next h => exact hn h (by simp [PointState.settled])
  · next h _ => exact hn h (by simp [PointState.settled])
  · next h _ => exact hn h (by simp [PointState.settled])
  · rfl

/-- A delivery sets the point's copy of its condition; what follows is a run of turns (R4, R37). -/
theorem Alarm.deliver_turns (e : Env) (p : PointId) (v : Bool) (a : Alarm) :
    Alarm.Turns e (a.setCondition p v) (a.deliver e p v) := by
  have hp : (a.setCondition p v).points[p] = { a.points[p] with abnormal := v } := by
    rw [Alarm.setCondition, Alarm.setPoint_points, if_pos rfl]
  unfold Alarm.deliver
  split
  · exact .refl
  · exact Alarm.qa_turns (by rw [hp])
  · next h1 h2 =>
    refine (Alarm.qa_turns (by rw [hp])).trans (Alarm.countQA_turns ?_)
    have hs {t : PointState} (ht : t.settled) : ((a.setCondition p true).qa e p).points[p].state = t ↔ a.points[p].state = t := by
      rw [Alarm.qa_settled ht, hp]
    rintro (h | h)
    · exact h1 ((hs (.inl rfl)).mp h)
    · exact h2 ((hs (.inr rfl)).mp h)
  · exact Alarm.qn_turns

theorem Alarm.ack_turns (e : Env) (p : PointId) (a : Alarm) : Alarm.Turns e a (a.ack e p) := by
  unfold Alarm.ack
  split
  · next h hq =>
    split
    · exact Alarm.move_turns h .ack (by simp) (by simp [PointState.settled]) (fun _ => rfl) nofun nofun
    · exact Alarm.move_turns h .ack (by simp) (by simp [PointState.settled]) (fun _ => rfl) (fun _ => hq) nofun
  · next h _ => exact Alarm.move_turns h .ack (by simp) (by simp [PointState.settled]) (fun _ => rfl) nofun nofun
  · next h _ => exact Alarm.move_turns h .ack (by simp) (by simp [PointState.settled]) nofun nofun nofun
  · exact .refl

theorem Alarm.ackAll_turns (e : Env) (a : Alarm) : Alarm.Turns e a (a.ackAll e).1 := by
  refine foldl_keeps (P := fun x : Alarm × Nat => Alarm.Turns e a x.1) (fun x p hx => ?_) _ .refl
  unfold Alarm.ackSweep
  split
  · exact hx.trans (Alarm.ack_turns e p x.1)
  · exact hx

theorem Alarm.rst_turns (e : Env) (h : a.points[p].state = .awaitReset) : Alarm.Turns e a (a.rst e p) :=
  Alarm.move_turns h .rst (by simp) (by simp [PointState.settled]) nofun nofun nofun

theorem Alarm.resetAll_turns (e : Env) (a : Alarm) : Alarm.Turns e a (a.resetAll e).1 := by
  refine foldl_keeps (P := fun x : Alarm × Nat => Alarm.Turns e a x.1) (fun x p hx => ?_) _ .refl
  split
  · next h => exact hx.trans (Alarm.rst_turns e h)
  · exact hx

/-- A point hushed and its claim passed on: the other points are as they were. -/
theorem Alarm.hush_points (e : Env) (p q : PointId) (a : Alarm) :
    (a.hush e p).points[q] = if q = p then { a.points[p] with hushed := true } else a.points[q] :=
  Alarm.setPoint_points ..

theorem Alarm.foldl_hush_turns (e : Env) (ps : List PointId) (a : Alarm) (h : ∀ p ∈ ps, a.points[p].state = .alerting) :
    Alarm.Turns e a (ps.foldl (fun a p => a.hush e p) a) := by
  induction ps generalizing a with
  | nil => exact .refl
  | cons p ps ih =>
    refine (Alarm.Turn.hush a p (h p List.mem_cons_self)).turns.trans (ih _ fun q hq => ?_)
    have hq' := h q (List.mem_cons_of_mem _ hq)
    rw [Alarm.hush_points]
    split
    · next hqp => rw [← hqp]; exact hq'
    · exact hq'

theorem Alarm.silence_turns (e : Env) (a : Alarm) : Alarm.Turns e a (a.silence e).1 := by
  refine (Alarm.foldl_hush_turns e _ a fun p hp => ?_).tail (.record _ _)
  have hw := (List.mem_filter.mp hp).2
  unfold Point.audible at hw
  exact of_decide_eq_true (Bool.and_eq_true_iff.mp hw).1

end

end Sys2Proof.Machine
end


section
/-! SUPPORT. The laws of the alarm blocks, turn by turn. -/

namespace Sys2Proof.Machine

variable {e : Env} {a b : Alarm}

/-! ## Laws closed under the primitive changes, and what no turn changes -/

/-- What the primitive changes keep, every turn keeps. -/
theorem Alarm.Turn.closed {P : Alarm → Prop} (hP : e.Keeps P) (h : Alarm.Turn e a b) (ha : P a) : P b := by
  cases h with
  | move o p to_ cause => exact Alarm.move_keeps (e := { e with origin := o }) hP p to_ cause ha
  | begin_ o p cause => exact Alarm.newOccurrence_keeps (e := { e with origin := o }) hP p cause ha
  | release o p => exact Alarm.enter_keeps (e := { e with origin := o }) hP p .release ha
  | record b => exact hP.append a b ha
  | hush p => exact Alarm.hush_keeps hP p ha
  | remind o p => exact Alarm.remind_keeps (e := { e with origin := o }) hP p ha
  | count p c => exact Alarm.setChatter_keeps hP p c ha
  | chirp => exact hP.chirp a ha
  | shelve o n cause => exact Alarm.shelve_keeps (e := { e with origin := o }) hP n cause ha
  | extend n => exact hP.shelf a _ ha
  | unshelve o p cause => exact Alarm.unshelve_keeps (e := { e with origin := o }) hP p cause ha

/-- The elapsed count is none of the alarm operations' concern. -/
theorem Alarm.elapsed_closed (now : Nat) (test defer : Bool) (c : Configuration) :
    Alarm.Closed test defer c fun a => a.journal.elapsed = now where
  keep _ _ _ _ _ h := h
  claim _ _ _ _ _ _ _ h := h
  append _ _ h := (Journal.append_elapsed ..).trans h
  chirp _ h := h
  groups _ _ _ _ h := h
  shelf _ _ h := h
  chatter _ _ h := h

theorem Alarm.Turn.elapsed (h : Alarm.Turn e a b) : b.journal.elapsed = a.journal.elapsed :=
  h.closed (Alarm.elapsed_closed _ _ _ _) rfl

theorem Alarm.Turn.abnormal (h : Alarm.Turn e a b) (q : PointId) : b.points[q].abnormal = a.points[q].abnormal := by
  cases h with
  | move o p to_ cause => exact Alarm.move_abnormal ..
  | begin_ o p cause => exact Alarm.newOccurrence_abnormal ..
  | release o p => exact Alarm.enter_abnormal ..
  | record b => rfl
  | hush p =>
    rw [Alarm.hush_points]
    split
    · next h => rw [h]
    · rfl
  | remind o p => exact Alarm.transition_abnormal _ _ _ _ _ _ rfl
  | count p c => rfl
  | chirp => rfl
  | shelve o n cause => exact Alarm.move_abnormal ..
  | extend n => rfl
  | unshelve o p cause =>
    unfold Alarm.unshelve
    simp only
    split
    · exact Alarm.newOccurrence_abnormal ..
    · exact Alarm.move_abnormal ..

theorem Alarm.remind_points (e : Env) (p q : PointId) (a : Alarm) : (a.remind e p).points[q] =
    if q = p then { a.moved e p .alerting with entryStamp := a.journal.nextSeq } else a.points[q] :=
  Alarm.transition_points ..

/-! ## DISABLED and SHELVED points (R3, R62) -/

/-- A point goes to or from a settled state by being shelved or unshelved alone. -/
theorem Alarm.Turn.settled (h : Alarm.Turn e a b) {t : PointState} (ht : t.settled) (q : PointId) :
    (b.points[q].state = t ↔ a.points[q].state = t) ∧ b.shelf = a.shelf ∨
    (∃ n, ¬a.points[n.point].state.settled ∧ a.shelf.length < Config.shelfSize ∧ b.shelf = (a.placeEntry n).shelf ∧
      (b.points[q].state = t ↔ if q = n.point then t = .shelved else a.points[q].state = t)) ∨
    (∃ n, a.points[n.point].state = .shelved ∧ b.shelf = (a.placeEntry n).shelf ∧
      (b.points[q].state = t ↔ a.points[q].state = t)) ∨
    ∃ p, (a.points[p].state = .shelved ∨ p ∈ a.shelf.map ShelfEntry.point) ∧ b.shelf = (a.removeEntry p).shelf ∧
      (b.points[q].state = t ↔ q ≠ p ∧ a.points[q].state = t) := by
  cases h with
  | move o p to_ cause h =>
    refine .inl ⟨(Alarm.move_settled ht ..).trans ?_, Alarm.move_shelf ..⟩
    split
    · next hq =>
      subst hq
      exact ⟨fun h' => absurd (h' ▸ ht) h.unsettled, fun h' => absurd (h' ▸ ht) h.from_⟩
    · rfl
  | begin_ o p cause h =>
    refine .inl ⟨(Alarm.newOccurrence_settled ht ..).trans ⟨And.right, fun hq => ⟨?_, hq⟩⟩, Alarm.newOccurrence_shelf ..⟩
    rintro rfl
    exact h (hq ▸ ht)
  | release o p h =>
    refine .inl ⟨?_, Alarm.enter_shelf ..⟩
    rw [Alarm.enter_points]
    split
    · next hq =>
      rw [hq, h]
      refine ⟨fun h' => absurd h' (Sequence.entryState_not_settled ht _), ?_⟩
      rcases ht with rfl | rfl <;> exact nofun
    · rfl
  | record b => exact .inl ⟨Iff.rfl, rfl⟩
  | hush p =>
    refine .inl ⟨?_, rfl⟩
    rw [Alarm.hush_points]
    split
    · next h => rw [h]
    · rfl
  | remind o p h =>
    refine .inl ⟨?_, rfl⟩
    rw [Alarm.remind_points]
    split
    · next hq =>
      rw [hq, h]
      rcases ht with rfl | rfl <;> simp
    · rfl
  | count p c => exact .inl ⟨Iff.rfl, rfl⟩
  | chirp => exact .inl ⟨Iff.rfl, rfl⟩
  | shelve o n cause h hl =>
    refine .inr (.inl ⟨n, h, hl, Alarm.move_shelf .., (Alarm.move_settled ht ..).trans ?_⟩)
    simp only [eq_comm (a := PointState.shelved)]
    rfl
  | extend n h => exact .inr (.inr (.inl ⟨n, h, rfl, Iff.rfl⟩))
  | unshelve o p cause h =>
    refine .inr (.inr (.inr ⟨p, h, ?_, ?_⟩)) <;> unfold Alarm.unshelve <;> simp only <;> split
    · exact Alarm.newOccurrence_shelf ..
    · exact Alarm.move_shelf ..
    · exact Alarm.newOccurrence_settled ht ..
    · refine (Alarm.move_settled ht ..).trans ?_
      by_cases hq : q = p
      · rw [if_pos hq]
        rcases ht with rfl | rfl <;> simp [hq]
      · rw [if_neg hq]
        exact ⟨fun h' => ⟨hq, h'⟩, And.right⟩

theorem Alarm.Turn.enabledLaw {c : Configuration} (h : Alarm.Turn e a b) (hs : a.ShelfLaw) (ha : a.EnabledLaw c) :
    b.EnabledLaw c := by
  intro q
  rw [← ha q]
  rcases h.settled (t := .disabled) (.inl rfl) q with
    ⟨hq, -⟩ | ⟨n, hn, -, -, hq⟩ | ⟨n, -, -, hq⟩ | ⟨p, hp, -, hq⟩
  · exact hq
  · rw [hq]
    split
    · next h' =>
      rw [h']
      exact ⟨nofun, fun hd => absurd (.inl hd) hn⟩
    · rfl
  · exact hq
  · rw [hq]
    refine ⟨And.right, fun hd => ⟨?_, hd⟩⟩
    rintro rfl
    rw [hp.elim id (hs.shelved q).mpr] at hd
    cases hd

/-! ## The shelf table (R62) -/

theorem insertEntry_perm (now : Nat) (n : ShelfEntry) (es : List ShelfEntry) : (insertEntry now n es).Perm (n :: es) := by
  induction es with
  | nil => exact .refl _
  | cons m es ih =>
    unfold insertEntry
    split
    · exact (ih.cons m).trans (.swap n m es)
    · exact .refl _

theorem Alarm.placeEntry_perm (n : ShelfEntry) (a : Alarm) :
    (a.placeEntry n).shelf.Perm (n :: withoutEntry n.point a.shelf) := insertEntry_perm ..

theorem map_point_withoutEntry (p : PointId) (es : List ShelfEntry) :
    (withoutEntry p es).map ShelfEntry.point = (es.map ShelfEntry.point).filter fun q => q ≠ p := by
  rw [List.filter_map]; rfl

/-- The shelf table with its entries' points, apart from the point table. -/
structure Shelf.Sound (es : List ShelfEntry) : Prop where
  size : es.length ≤ Config.shelfSize
  once : (es.map ShelfEntry.point).Nodup

theorem Shelf.Sound.without {es : List ShelfEntry} (h : Shelf.Sound es) (p : PointId) : Shelf.Sound (withoutEntry p es) where
  size := (List.length_filter_le ..).trans h.size
  once := by rw [map_point_withoutEntry]; exact h.once.filter _

theorem Shelf.Sound.placed {n : ShelfEntry} (h : Shelf.Sound a.shelf)
    (hl : a.shelf.length < Config.shelfSize ∨ n.point ∈ a.shelf.map ShelfEntry.point) :
    Shelf.Sound (a.placeEntry n).shelf := by
  have hp := Alarm.placeEntry_perm n a
  refine ⟨?_, ?_⟩
  · rw [hp.length_eq, List.length_cons]
    rcases hl with hl | hl
    · exact (Nat.succ_le_succ (List.length_filter_le ..)).trans hl
    · obtain ⟨m, hm, hmp⟩ := List.mem_map.mp hl
      have : (withoutEntry n.point a.shelf).length < a.shelf.length :=
        List.length_filter_lt_length_iff_exists.mpr ⟨m, hm, by simp [hmp]⟩
      exact this.trans_le h.size
  · refine ((hp.map _).nodup_iff).mpr (List.nodup_cons.mpr ⟨?_, (h.without n.point).once⟩)
    rw [map_point_withoutEntry]
    simp

theorem Alarm.mem_placeEntry (n : ShelfEntry) (a : Alarm) (q : PointId) :
    q ∈ (a.placeEntry n).shelf.map ShelfEntry.point ↔ q = n.point ∨ q ∈ a.shelf.map ShelfEntry.point := by
  rw [((Alarm.placeEntry_perm n a).map _).mem_iff, List.map_cons, List.mem_cons, map_point_withoutEntry, List.mem_filter,
    decide_eq_true_iff]
  by_cases hq : q = n.point <;> simp [hq]

theorem Alarm.mem_removeEntry (p : PointId) (a : Alarm) (q : PointId) :
    q ∈ (a.removeEntry p).shelf.map ShelfEntry.point ↔ q ≠ p ∧ q ∈ a.shelf.map ShelfEntry.point := by
  rw [Alarm.removeEntry, map_point_withoutEntry, List.mem_filter, decide_eq_true_iff, and_comm]

theorem Alarm.Turn.shelfLaw (h : Alarm.Turn e a b) (ha : a.ShelfLaw) : b.ShelfLaw := by
  have hs : Shelf.Sound a.shelf := ⟨ha.size, ha.once⟩
  have hsound : Shelf.Sound b.shelf := by
    rcases h.settled (t := .shelved) (.inr rfl) 0 with ⟨-, hb⟩ | ⟨n, -, hl, hb, -⟩ | ⟨n, hn, hb, -⟩ | ⟨p, -, hb, -⟩
    · exact hb ▸ hs
    · exact hb ▸ hs.placed (.inl hl)
    · exact hb ▸ hs.placed (.inr ((ha.shelved _).mp hn))
    · exact hb ▸ hs.without p
  refine ⟨hsound.size, hsound.once, fun q => ?_⟩
  rcases h.settled (t := .shelved) (.inr rfl) q with
    ⟨hq, hb⟩ | ⟨n, -, -, hb, hq⟩ | ⟨n, hn, hb, hq⟩ | ⟨p, -, hb, hq⟩
  · rw [hq, hb]; exact ha.shelved q
  · rw [hq, hb, Alarm.mem_placeEntry, ← ha.shelved q]
    by_cases h' : q = n.point <;> simp [h', -Fin.getElem_fin]
  · rw [hq, hb, Alarm.mem_placeEntry, ← ha.shelved q]
    exact ⟨.inr, fun h' => h'.elim (fun h' => h' ▸ hn) id⟩
  · rw [hq, hb, Alarm.mem_removeEntry, ← ha.shelved q]

/-! ### The order of the shelf table (R62, R63) -/

/-- An entry put in its place keeps the table in the order of the expiries. -/
theorem insertEntry_sorted (now : Nat) (n : ShelfEntry) {es : List ShelfEntry}
    (h : (es.map fun m => timeLeft now m.expiry).Pairwise (· ≤ ·)) :
    ((insertEntry now n es).map fun m => timeLeft now m.expiry).Pairwise (· ≤ ·) := by
  induction es with
  | nil => simp [insertEntry]
  | cons m es ih =>
    obtain ⟨hm, hes⟩ := List.pairwise_cons.mp h
    unfold insertEntry
    split
    · next hle =>
      refine List.pairwise_cons.mpr ⟨fun x hx => ?_, ih hes⟩
      rcases List.mem_cons.mp ((((insertEntry_perm now n es).map _).mem_iff).mp hx) with hx | hx
      · exact hx ▸ hle
      · exact hm x hx
    · next hlt =>
      have hlt := Nat.le_of_lt (Nat.not_le.mp hlt)
      refine List.pairwise_cons.mpr ⟨fun x hx => ?_, h⟩
      rcases List.mem_cons.mp hx with hx | hx
      · exact hx ▸ hlt
      · exact hlt.trans (hm x hx)

/-- A deadline set `d` milliseconds ahead lies that far ahead. -/
theorem clockAfter_ahead (now d : Nat) (h : d < Config.clockModulus) :
    (clockAfter now d + Config.clockModulus - now % Config.clockModulus) % Config.clockModulus = d := by
  unfold clockAfter
  unfold Config.clockModulus at h ⊢
  omega

theorem Alarm.ShelfOrderLaw.filtered (ha : a.ShelfOrderLaw) (p : PointId) : (a.removeEntry p).ShelfOrderLaw where
  inOrder := ha.inOrder.sublist (List.filter_sublist.map _)
  ahead n hn := ha.ahead n (List.mem_of_mem_filter hn)

theorem Alarm.ShelfOrderLaw.placed (ha : a.ShelfOrderLaw) {c : Configuration} (hc : c.InTables) {n : ShelfEntry}
    (hn : n.Allowed c a) : (a.placeEntry n).ShelfOrderLaw where
  inOrder := insertEntry_sorted _ n (ha.filtered n.point).inOrder
  ahead m hm := by
    rcases List.mem_cons.mp ((Alarm.placeEntry_perm n a).mem_iff.mp hm) with rfl | hm
    · have hmin : m.minutes ≤ 1440 := by
        rcases hn.2 with h | h
        · exact h
        · obtain ⟨-, -, hle, -⟩ := hc.points m.point
          rw [h]; omega
      rw [hn.1]
      have hk := clockAfter_ahead a.journal.elapsed (m.minutes * 60000) (by unfold Config.clockModulus; omega)
      exact hk.le.trans (by omega)
    · exact (ha.filtered n.point).ahead m hm

/-- The order law reads the table and the elapsed count alone. -/
theorem Alarm.ShelfOrderLaw.congr (ha : a.ShelfOrderLaw) (hs : b.shelf = a.shelf)
    (hj : b.journal.elapsed = a.journal.elapsed) : b.ShelfOrderLaw := by
  obtain ⟨h1, h2⟩ := ha
  rw [← hs, ← hj] at h1 h2
  exact ⟨h1, h2⟩

theorem Alarm.Turn.shelfOrderLaw (hc : e.config.InTables) (h : Alarm.Turn e a b) (ha : a.ShelfOrderLaw) :
    b.ShelfOrderLaw := by
  have hj := h.elapsed
  cases h with
  | move o p to_ cause => exact ha.congr (Alarm.move_shelf ..) hj
  | begin_ o p cause => exact ha.congr (Alarm.newOccurrence_shelf ..) hj
  | release o p => exact ha.congr (Alarm.enter_shelf ..) hj
  | record b => exact ha.congr rfl hj
  | hush p => exact ha.congr rfl hj
  | remind o p => exact ha.congr rfl hj
  | count p c => exact ha.congr rfl hj
  | chirp => exact ha.congr rfl hj
  | shelve o n cause _ _ hn => exact (ha.placed hc hn).congr (Alarm.move_shelf ..) hj
  | extend n _ hn => exact ha.placed hc hn
  | unshelve o p cause =>
    refine (ha.filtered p).congr ?_ hj
    unfold Alarm.unshelve
    simp only
    split
    · exact Alarm.newOccurrence_shelf ..
    · exact Alarm.move_shelf ..

/-! ## Groups (R50) -/

/-- A change of a point's record that keeps it in or out of the active states keeps the group law. -/
theorem Alarm.GroupLaw.changed {c : Configuration} (ha : a.GroupLaw c) (hg : b.groups = a.groups)
    (hb : ∀ q : PointId, b.points[q].state.active = a.points[q].state.active) : b.GroupLaw c := fun g => by
  rw [hg, Alarm.groupActive_congr fun q _ => hb q]
  exact ha g

theorem Alarm.Turn.groupLaw (h : Alarm.Turn e a b) (ha : a.GroupLaw e.config) : b.GroupLaw e.config := by
  cases h with
  | move o p to_ cause h => exact Alarm.move_groupLaw (e := { e with origin := o }) p to_ cause h.active ha
  | begin_ o p cause => exact Alarm.newOccurrence_groupLaw (e := { e with origin := o }) p cause ha
  | release o p =>
    exact (Alarm.groupLaw_iff ..).mpr
      (Alarm.enter_groupLawBut (e := { e with origin := o }) p .release ((Alarm.groupLaw_iff ..).mp ha))
  | record b => exact ha
  | hush p =>
    refine ha.changed rfl fun q => ?_
    rw [Alarm.hush_points]
    split
    · next h => rw [h]
    · rfl
  | remind o p h =>
    refine ha.changed rfl fun q => ?_
    rw [Alarm.remind_points]
    split
    · next hq => rw [hq, h]; rfl
    · rfl
  | count p c => exact ha
  | chirp => exact ha
  | shelve o n cause => exact Alarm.move_groupLaw (e := { e with origin := o }) n.point .shelved cause nofun ha
  | extend n => exact ha
  | unshelve o p cause =>
    unfold Alarm.unshelve
    simp only
    split
    · exact Alarm.newOccurrence_groupLaw (e := { e with origin := o }) p cause ha
    · exact Alarm.move_groupLaw (e := { e with origin := o }) p .idle cause nofun ha

/-! ## All of them together -/

/-- The laws of the alarm blocks against a configuration, but for the channels'. -/
structure Alarm.Tables (c : Configuration) (a : Alarm) : Prop where
  enabled : a.EnabledLaw c
  groups : a.GroupLaw c
  shelf : a.ShelfLaw
  lamps : a.LampLaw
  claims : a.ClaimLaw c

theorem Part.alarmLaw_iff (s : Part) :
    s.AlarmLaw ↔ s.alarm.Tables s.active ∧ s.alarm.sounder.ChannelLaw s.panel.testSet.active :=
  ⟨fun h => ⟨⟨h.enabled, h.groups, h.shelf, h.lamps, h.claims⟩, h.channels⟩,
    fun ⟨h, hc⟩ => ⟨h.enabled, h.groups, h.shelf, h.lamps, h.claims, hc⟩⟩

theorem Alarm.Turn.tables (h : Alarm.Turn e a b) (ha : a.Tables e.config) : b.Tables e.config where
  enabled := h.enabledLaw ha.shelf ha.enabled
  groups := h.groupLaw ha.groups
  shelf := h.shelfLaw ha.shelf
  lamps := h.closed (Alarm.LampLaw.closed ..) ha.lamps
  claims := h.closed (Alarm.ClaimLaw.closed ..) ha.claims

theorem Alarm.Turn.channelLaw (he : e.defer = false) (h : Alarm.Turn e a b) (ha : a.sounder.ChannelLaw e.test) :
    b.sounder.ChannelLaw e.test :=
  h.closed (P := fun a => a.sounder.ChannelLaw e.test) (by rw [Env.Keeps, he]; exact Sounder.ChannelLaw.closed ..) ha

end Sys2Proof.Machine
end


section
/-! SUPPORT. The laws of the point table and of the sequences, turn by turn (R6 to R12, R16, R17, R47, R53). -/

namespace Sys2Proof.Machine

variable {e : Env} {a b : Alarm} {p : PointId}

/-! ## A point by itself -/

theorem occurrenceAfter_pos (n : Nat) : 1 ≤ occurrenceAfter n := by
  unfold occurrenceAfter; split <;> omega

theorem occurrenceAfter_le (n : Nat) : occurrenceAfter n ≤ 65535 := by
  unfold occurrenceAfter; split <;> omega

/-- The record an entry gives is lawful, whatever the state before it, where an occurrence has begun. -/
theorem Alarm.entered_law (e : Env) (hp : a.points[p].occurrence ≤ 65535) (h1 : 1 ≤ a.points[p].occurrence) :
    (a.entered e p).Law where
  hushed := nofun
  mark _ := Sequence.entryState_active _
  reminder h := absurd rfl h
  occurrence := hp
  begun _ := h1
  suppressed h := absurd h (Sequence.entryState_ne (by simp) _)

/-- The record a move gives is lawful. -/
theorem Alarm.moved_law {to_ : PointState} (hp : a.points[p].Law)
    (hact : to_.active = true → a.points[p].state.active = true)
    (hsup : to_ = .suppressed → 1 ≤ a.points[p].occurrence ∧ a.points[p].abnormal = true) : (a.moved e p to_).Law where
  hushed := nofun
  mark h := by
    simp only [Alarm.moved] at h
    split at h
    · cases h
    · next hc =>
      rw [hp.mark h] at hc
      simpa [Alarm.moved] using hc
  reminder h := by
    simp only [Alarm.moved] at h ⊢
    split at h
    · assumption
    · exact absurd rfl h
  occurrence := hp.occurrence
  begun h := by
    rcases h with h | h
    · exact hp.begun (.inl (hact h))
    · exact (hsup h).1
  suppressed h := (hsup h).2

/-! ## Suppressors (R12, R53, R54) -/

theorem Alarm.suppressorActive_iff (c : Configuration) (p : PointId) (a : Alarm) : a.suppressorActive c p = true ↔
    ∃ q : PointId, c.points[p].suppressor = some q ∧ a.points[q].state.active = true := by
  unfold Alarm.suppressorActive
  cases c.points[p].suppressor with
  | none => simp
  | some q => simp

/-- The laws of the point table, but that the SUPPRESSED points of `X` may have lost their suppressor. -/
structure Alarm.PointLawBut (c : Configuration) (X : PointId → Prop) (a : Alarm) : Prop where
  each : ∀ p : PointId, a.points[p].Law
  suppressed : ∀ p : PointId, a.points[p].state = .suppressed → a.suppressorActive c p = true ∨ X p

theorem Alarm.PointLaw.but {c : Configuration} (h : a.PointLaw c) (X : PointId → Prop) : a.PointLawBut c X :=
  ⟨h.each, fun p hp => .inl (h.suppressed p hp)⟩

/-- Where none of the exempted points is SUPPRESSED any more, the law holds. -/
theorem Alarm.PointLawBut.full {c : Configuration} {X : PointId → Prop} (h : a.PointLawBut c X)
    (hX : ∀ p, X p → a.points[p].state ≠ .suppressed) : a.PointLaw c :=
  ⟨h.each, fun p hp => (h.suppressed p hp).resolve_right fun hx => hX p hx hp⟩

/-- Setting one record keeps the law: the record is lawful, an active point stays active unless its consequents are exempt,
and the point is SUPPRESSED only where that is lawful. -/
theorem Alarm.PointLawBut.set {c : Configuration} {X : PointId → Prop} {d : Point} (h : a.PointLawBut c X)
    (hb : ∀ q : PointId, b.points[q] = if q = p then d else a.points[q]) (hd : d.Law)
    (hact : a.points[p].state.active = true → d.state.active = true ∨ ∀ q : PointId, c.points[q].suppressor = some p → X q)
    (hsup : d.state = .suppressed → b.suppressorActive c p = true ∨ X p) : b.PointLawBut c X where
  each q := by
    rw [hb]
    split
    · exact hd
    · exact h.each q
  suppressed q hq := by
    by_cases hqp : q = p
    · subst hqp
      rw [hb, if_pos rfl] at hq
      exact hsup hq
    · rw [hb, if_neg hqp] at hq
      rcases h.suppressed q hq with hs | hs
      · obtain ⟨r, hr, hra⟩ := (Alarm.suppressorActive_iff ..).mp hs
        by_cases hrp : r = p
        · subst hrp
          rcases hact hra with hda | hX
          · exact .inl ((Alarm.suppressorActive_iff ..).mpr ⟨r, hr, by rw [hb, if_pos rfl]; exact hda⟩)
          · exact .inr (hX q hr)
        · exact .inl ((Alarm.suppressorActive_iff ..).mpr ⟨r, hr, by rw [hb, if_neg hrp]; exact hra⟩)
      · exact .inr hs

/-- An entry keeps the law, where an occurrence has begun. -/
theorem Alarm.PointLawBut.enter {X : PointId → Prop} (h : a.PointLawBut e.config X) (h1 : 1 ≤ a.points[p].occurrence)
    (cause : Cause) : (a.enter e p cause).PointLawBut e.config X :=
  h.set (fun _ => Alarm.enter_points ..) (Alarm.entered_law e (h.each p).occurrence h1)
    (fun _ => .inl (Sequence.entryState_active _)) fun hs => absurd hs (Sequence.entryState_ne (by simp) _)

/-- A release keeps the law. -/
theorem Alarm.PointLawBut.release {X : PointId → Prop} {qs : List PointId} (h : a.PointLawBut e.config X)
    (h1 : ∀ q ∈ qs, 1 ≤ a.points[q].occurrence) : (a.release e qs).PointLawBut e.config X := by
  induction qs generalizing a with
  | nil => exact h
  | cons r qs ih =>
    refine ih (h.enter (h1 r List.mem_cons_self) .release) fun q hq => ?_
    rw [Alarm.enter_points]
    split
    · next hqr => exact h1 r List.mem_cons_self
    · exact h1 q (List.mem_cons_of_mem _ hq)

/-- A released point is not SUPPRESSED, and no point becomes so. -/
theorem Alarm.release_suppressed {qs : List PointId} {q : PointId} (h : (a.release e qs).points[q].state = .suppressed) :
    q ∉ qs ∧ a.points[q].state = .suppressed := by
  by_cases hq : q ∈ qs
  · rw [Alarm.release_state_of_mem e q qs a hq] at h
    exact absurd h (Sequence.entryState_ne (by simp) _)
  · exact ⟨hq, by rwa [Alarm.release_points_of_notMem e q qs a hq] at h⟩

/-- A move keeps the laws of the point table. -/
theorem Alarm.move_pointLaw {to_ : PointState} (h : a.PointLaw e.config) (cause : Cause)
    (hact : to_.active = true → a.points[p].state.active = true)
    (hsup : to_ = .suppressed → 1 ≤ a.points[p].occurrence ∧ a.points[p].abnormal = true ∧
      a.suppressorActive e.config p = true) : (a.move e p to_ cause).PointLaw e.config := by
  let X (q : PointId) : Prop := a.points[p].state.active = true ∧ to_.active = false ∧ e.config.points[q].suppressor = some p
  have hpts := fun q => Alarm.transition_points e p q (a.moved e p to_) cause a
  have hd : (a.moved e p to_).Law := Alarm.moved_law (h.each p) hact fun hs => ⟨(hsup hs).1, (hsup hs).2.1⟩
  have ht : (a.transition e p (a.moved e p to_) cause).PointLawBut e.config X := by
    refine (h.but X).set hpts hd (fun hpa => ?_) fun hs => ?_
    · cases hto : to_.active
      · exact .inr fun q hq => ⟨hpa, hto, hq⟩
      · exact .inl hto
    · change to_ = .suppressed at hs
      obtain ⟨r, hr, hra⟩ := (Alarm.suppressorActive_iff ..).mp (hsup hs).2.2
      by_cases hrp : r = p
      · subst hrp
        exact .inr ⟨hra, congrArg PointState.active hs, hr⟩
      · exact .inl ((Alarm.suppressorActive_iff ..).mpr ⟨r, hr, by rw [hpts, if_neg hrp]; exact hra⟩)
  unfold Alarm.move
  simp only
  split
  · have hr := ht.release (qs := (a.transition e p (a.moved e p to_) cause).heldBack e.config p)
      fun q hq => (ht.each q).begun (.inr ((Alarm.mem_heldBack ..).mp hq).1)
    have hl : ((a.transition e p (a.moved e p to_) cause).left e p).PointLawBut e.config X := by
      unfold Alarm.left
      refine ⟨fun q => ?_, fun q => ?_⟩
      · rw [Alarm.rearmGroupOf_points]; exact hr.each q
      · have hq := hr.suppressed q
        unfold Alarm.suppressorActive at hq ⊢
        simpa only [Alarm.rearmGroupOf_points] using hq
    refine hl.full fun q hX hs => ?_
    rw [Alarm.left_points] at hs
    obtain ⟨hn, hst⟩ := Alarm.release_suppressed hs
    exact hn ((Alarm.mem_heldBack ..).mpr ⟨hst, hX.2.2⟩)
  · next hc =>
    refine ht.full fun q hX => absurd ?_ hc
    rw [hX.1, hX.2.1]; rfl

/-- A new occurrence of an ABNORMAL point keeps the laws of the point table. -/
theorem Alarm.newOccurrence_pointLaw (h : a.PointLaw e.config) (hab : a.points[p].abnormal = true) (cause : Cause) :
    (a.newOccurrence e p cause).PointLaw e.config := by
  let d : Point := { a.points[p] with occurrence := occurrenceAfter a.points[p].occurrence }
  have hpts := fun q => Alarm.setPoint_points a p q d
  have hp : (a.setPoint p d).points[p] = d := by rw [hpts, if_pos rfl]
  have hd : d.Law :=
    { h.each p with occurrence := occurrenceAfter_le _, begun := fun _ => occurrenceAfter_pos _ }
  have hs : (a.setPoint p d).PointLaw e.config := by
    refine ((h.but fun _ => False).set hpts hd (fun hpa => .inl hpa) fun hps => .inl ?_).full nofun
    obtain ⟨r, hr, hra⟩ := (Alarm.suppressorActive_iff ..).mp (h.suppressed p hps)
    refine (Alarm.suppressorActive_iff ..).mpr ⟨r, hr, ?_⟩
    rw [hpts]
    split
    · next hrp => rw [hrp] at hra; exact hra
    · exact hra
  unfold Alarm.newOccurrence
  simp only
  split
  · next hsa =>
    refine Alarm.move_pointLaw hs _ nofun fun _ => ⟨?_, ?_, hsa⟩
    · rw [hp]; exact occurrenceAfter_pos _
    · rw [hp]; exact hab
  · refine ((hs.but fun _ => False).enter ?_ cause).full nofun
    rw [hp]; exact occurrenceAfter_pos _

/-- The laws of the point table read the points alone. -/
theorem Alarm.PointLaw.congr {c : Configuration} (h : a.PointLaw c) (hb : b.points = a.points) : b.PointLaw c := by
  obtain ⟨h1, h2⟩ := h
  unfold Alarm.suppressorActive at h2
  rw [← hb] at h1 h2
  exact ⟨h1, h2⟩

/-- A record changed with its state as it was, and lawful, keeps the laws of the point table. -/
theorem Alarm.PointLaw.set {c : Configuration} {d : Point} (h : a.PointLaw c)
    (hb : ∀ q : PointId, b.points[q] = if q = p then d else a.points[q])
    (hs : d.state.active = a.points[p].state.active) (hd : d.Law)
    (hn : d.state = .suppressed → a.points[p].state = .suppressed) : b.PointLaw c := by
  refine ((h.but fun _ => False).set hb hd (fun hpa => .inl (hs.trans hpa)) fun hps => .inl ?_).full nofun
  obtain ⟨r, hr, hra⟩ := (Alarm.suppressorActive_iff ..).mp (h.suppressed p (hn hps))
  refine (Alarm.suppressorActive_iff ..).mpr ⟨r, hr, ?_⟩
  rw [hb]
  split
  · next hrp => rw [hs, ← hrp]; exact hra
  · exact hra

theorem Alarm.Turn.pointLaw (h : Alarm.Turn e a b) (ha : a.PointLaw e.config) : b.PointLaw e.config := by
  cases h with
  | move o p to_ cause h =>
    exact Alarm.move_pointLaw (e := { e with origin := o }) ha cause h.active fun hs => absurd hs h.notEntered.2
  | begin_ o p cause _ hab => exact Alarm.newOccurrence_pointLaw (e := { e with origin := o }) ha hab cause
  | release o p h =>
    have h1 := (ha.each p).begun (.inr h)
    exact (Alarm.PointLawBut.enter (e := { e with origin := o }) (ha.but fun _ => False) h1 .release).full nofun
  | record b => exact ha.congr rfl
  | hush p h =>
    exact ha.set (fun _ => Alarm.hush_points ..) rfl { ha.each p with hushed := fun _ => h } id
  | remind o p h hr =>
    refine ha.set (fun _ => Alarm.remind_points ..) (by rw [h]; rfl) ?_ nofun
    have hp := ha.each p
    exact ⟨nofun, fun _ => rfl, fun hn => absurd rfl hn, hp.occurrence, fun _ => hp.begun (.inl (by rw [h]; rfl)), nofun⟩
  | count p c => exact ha.congr rfl
  | chirp => exact ha.congr rfl
  | shelve o n cause =>
    exact Alarm.move_pointLaw (e := { e with origin := o }) (a := (a.placeEntry n).setChatter n.point {}) (ha.congr rfl)
      cause nofun nofun
  | extend n => exact ha.congr rfl
  | unshelve o p cause =>
    have hr : (a.removeEntry p).PointLaw e.config := ha.congr rfl
    unfold Alarm.unshelve
    simp only
    split
    · next hab => exact Alarm.newOccurrence_pointLaw (e := { e with origin := o }) hr hab cause
    · exact Alarm.move_pointLaw (e := { e with origin := o }) hr cause nofun nofun

/-! ## The sequences (R9, R10, R11, R16) -/

/-- What the sequences' tables ask of one point. -/
structure Point.Follows (q : Sequence) (d : Point) : Prop where
  alerting : d.state = .alerting → q ≠ .notice
  awaitReset : d.state = .awaitReset → q = .hold
  returned : d.state = .returned → q = .follow
  notice : q = .notice → d.reminder = none

theorem Alarm.sequenceLaw_iff (c : Configuration) (a : Alarm) :
    a.SequenceLaw c ↔ ∀ p : PointId, a.points[p].Follows c.points[p].sequence :=
  ⟨fun h p => ⟨h.alerting p, h.awaitReset p, h.returned p, h.notice p⟩,
    fun h => ⟨fun p => (h p).alerting, fun p => (h p).awaitReset, fun p => (h p).returned, fun p => (h p).notice⟩⟩

theorem Alarm.SequenceLaw.set {c : Configuration} {d : Point} (h : a.SequenceLaw c)
    (hb : ∀ q : PointId, b.points[q] = if q = p then d else a.points[q]) (hd : d.Follows c.points[p].sequence) :
    b.SequenceLaw c := by
  rw [Alarm.sequenceLaw_iff] at h ⊢
  intro q
  rw [hb]
  split
  · next hq => exact hq ▸ hd
  · exact h q

theorem Alarm.entered_follows (e : Env) (p : PointId) (a : Alarm) :
    (a.entered e p).Follows e.config.points[p].sequence where
  alerting := Sequence.entryState_alerting
  awaitReset h := absurd h (Sequence.entryState_ne (by simp) _)
  returned h := absurd h (Sequence.entryState_ne (by simp) _)
  notice _ := rfl

theorem Alarm.enter_sequenceLaw (h : a.SequenceLaw e.config) (cause : Cause) : (a.enter e p cause).SequenceLaw e.config :=
  h.set (fun _ => Alarm.enter_points ..) (Alarm.entered_follows ..)

theorem Alarm.release_sequenceLaw (h : a.SequenceLaw e.config) (qs : List PointId) :
    (a.release e qs).SequenceLaw e.config :=
  foldl_keeps (P := fun a => Alarm.SequenceLaw e.config a) (fun _ _ ha => Alarm.enter_sequenceLaw ha _) qs h

theorem Alarm.SequenceLaw.congr {c : Configuration} (h : a.SequenceLaw c) (hb : b.points = a.points) : b.SequenceLaw c := by
  obtain ⟨h1, h2, h3, h4⟩ := h
  rw [← hb] at h1 h2 h3 h4
  exact ⟨h1, h2, h3, h4⟩

theorem Alarm.move_sequenceLaw {to_ : PointState} (h : a.SequenceLaw e.config) (cause : Cause) (h0 : to_ ≠ .alerting)
    (h1 : to_ = .awaitReset → e.config.points[p].sequence = .hold)
    (h2 : to_ = .returned → e.config.points[p].sequence = .follow) : (a.move e p to_ cause).SequenceLaw e.config := by
  have ht : (a.transition e p (a.moved e p to_) cause).SequenceLaw e.config := by
    refine h.set (fun _ => Alarm.transition_points ..) ⟨fun hs => absurd hs h0, h1, h2, fun hn => ?_⟩
    simp only [Alarm.moved, Alarm.reminderStart, hn]
    simp
  unfold Alarm.move
  simp only
  split
  · exact (Alarm.release_sequenceLaw ht _).congr (Alarm.rearmGroupOf_points ..)
  · exact ht

theorem Alarm.newOccurrence_sequenceLaw (h : a.SequenceLaw e.config) (cause : Cause) :
    (a.newOccurrence e p cause).SequenceLaw e.config := by
  have hp := (Alarm.sequenceLaw_iff ..).mp h p
  have hs : (a.setPoint p { a.points[p] with occurrence := occurrenceAfter a.points[p].occurrence }).SequenceLaw e.config :=
    h.set (fun _ => Alarm.setPoint_points ..) ⟨hp.alerting, hp.awaitReset, hp.returned, hp.notice⟩
  unfold Alarm.newOccurrence
  simp only
  split
  · exact Alarm.move_sequenceLaw hs _ nofun nofun nofun
  · exact Alarm.enter_sequenceLaw hs cause

theorem Alarm.Turn.sequenceLaw (h : Alarm.Turn e a b) (ha : a.SequenceLaw e.config) : b.SequenceLaw e.config := by
  cases h with
  | move o p to_ cause h =>
    exact Alarm.move_sequenceLaw (e := { e with origin := o }) ha cause h.notEntered.1 h.awaitReset h.returned
  | begin_ o p cause => exact Alarm.newOccurrence_sequenceLaw (e := { e with origin := o }) ha cause
  | release o p => exact Alarm.enter_sequenceLaw (e := { e with origin := o }) ha .release
  | record b => exact ha.congr rfl
  | hush p =>
    have hp := (Alarm.sequenceLaw_iff ..).mp ha p
    exact ha.set (fun _ => Alarm.hush_points ..) ⟨hp.alerting, hp.awaitReset, hp.returned, hp.notice⟩
  | remind o p h hr =>
    exact ha.set (fun _ => Alarm.remind_points ..) ⟨fun _ hn => hr (ha.notice p hn), nofun, nofun, fun _ => rfl⟩
  | count p c => exact ha.congr rfl
  | chirp => exact ha.congr rfl
  | shelve o n cause =>
    exact Alarm.move_sequenceLaw (e := { e with origin := o }) (a := (a.placeEntry n).setChatter n.point {}) (ha.congr rfl)
      cause nofun nofun nofun
  | extend n => exact ha.congr rfl
  | unshelve o p cause =>
    have hr : (a.removeEntry p).SequenceLaw e.config := ha.congr rfl
    unfold Alarm.unshelve
    simp only
    split
    · exact Alarm.newOccurrence_sequenceLaw (e := { e with origin := o }) hr cause
    · exact Alarm.move_sequenceLaw (e := { e with origin := o }) hr cause nofun nofun nofun

/-! ## Deliveries (R4, R37) -/

/-- A condition field set keeps what the alarm laws say. -/
theorem Alarm.setCondition_points (p q : PointId) (v : Bool) (a : Alarm) : (a.setCondition p v).points[q] =
    if q = p then { a.points[p] with abnormal := v } else a.points[q] := Alarm.setPoint_points ..

theorem Alarm.setCondition_sequenceLaw {c : Configuration} (h : a.SequenceLaw c) (v : Bool) :
    (a.setCondition p v).SequenceLaw c := by
  have hp := (Alarm.sequenceLaw_iff ..).mp h p
  exact h.set (fun _ => Alarm.setCondition_points ..) ⟨hp.alerting, hp.awaitReset, hp.returned, hp.notice⟩

/-- A condition field set on a point keeps the laws of the point table, unless a SUPPRESSED point becomes NORMAL. -/
theorem Alarm.setCondition_pointLaw {c : Configuration} (h : a.PointLaw c) {v : Bool}
    (hv : a.points[p].state = .suppressed → v = true) : (a.setCondition p v).PointLaw c :=
  h.set (fun _ => Alarm.setCondition_points ..) rfl { h.each p with suppressed := hv } id

theorem Alarm.qn_suppressed (e : Env) (h : a.points[p].state = .suppressed) : a.qn e p = a.move e p .idle .qn := by
  unfold Alarm.qn
  rw [h]

/-- A SUPPRESSED point that becomes NORMAL goes to IDLE at once (R12). -/
theorem Alarm.deliver_normal_suppressed (e : Env) (h : a.points[p].state = .suppressed) :
    a.deliver e p false = (a.setCondition p false).move e p .idle .qn := by
  unfold Alarm.deliver
  rw [h]
  refine Alarm.qn_suppressed e ?_
  rw [Alarm.setCondition_points, if_pos rfl, h]

/-- A delivery keeps the laws of the point table. -/
theorem Alarm.deliver_pointLaw (h : a.PointLaw e.config) (p : PointId) (v : Bool) :
    (a.deliver e p v).PointLaw e.config := by
  by_cases hv : a.points[p].state = .suppressed → v = true
  · exact (Alarm.deliver_turns e p v a).keeps (fun _ _ => Alarm.Turn.pointLaw) (Alarm.setCondition_pointLaw h hv)
  · obtain ⟨hs, hv⟩ := Classical.not_imp.mp hv
    obtain rfl := Bool.eq_false_of_not_eq_true hv
    have hc : (a.setCondition p false).points[p] = { a.points[p] with abnormal := false } := by
      rw [Alarm.setCondition_points, if_pos rfl]
    have hm : a.points[p].mark = false := Bool.eq_false_iff.mpr fun hm => by
      have hact := (h.each p).mark hm
      rw [hs] at hact
      cases hact
    have hmove : a.deliver e p false = (a.setCondition p false).transition e p ((a.setCondition p false).moved e p .idle) .qn := by
      rw [Alarm.deliver_normal_suppressed e hs, Alarm.move, hc, if_neg]
      rw [hs]
      decide
    rw [hmove]
    refine h.set (d := (a.setCondition p false).moved e p .idle) (fun q => ?_) (by rw [hs]; rfl) ?_ nofun
    · rw [Alarm.transition_points, Alarm.setCondition_points]
      split <;> rfl
    · refine ⟨nofun, fun hd => ?_, fun hd => absurd rfl hd, ?_, nofun, nofun⟩
      · simp only [Alarm.moved, hc, hs, hm] at hd
        cases hd
      · simp only [Alarm.moved, hc]
        exact (h.each p).occurrence

theorem Alarm.deliver_sequenceLaw (h : a.SequenceLaw e.config) (p : PointId) (v : Bool) :
    (a.deliver e p v).SequenceLaw e.config :=
  (Alarm.deliver_turns e p v a).keeps (fun _ _ => Alarm.Turn.sequenceLaw) (Alarm.setCondition_sequenceLaw h v)

theorem Alarm.deliver_shelfOrderLaw (hc : e.config.InTables) (h : a.ShelfOrderLaw) (p : PointId) (v : Bool) :
    (a.deliver e p v).ShelfOrderLaw :=
  (Alarm.deliver_turns e p v a).keeps (fun _ _ => Alarm.Turn.shelfOrderLaw hc) (h.congr rfl rfl)

/-- A condition field set keeps the laws of the alarm blocks. -/
theorem Alarm.setCondition_tables {c : Configuration} (h : a.Tables c) (p : PointId) (v : Bool) :
    (a.setCondition p v).Tables c := by
  have hs (q : PointId) : ((a.setCondition p v).points[q]).state = a.points[q].state := by
    rw [Alarm.setCondition_points]
    split
    · next hq => rw [hq]
    · rfl
  refine ⟨fun q => ?_, ?_, ⟨h.shelf.size, h.shelf.once, fun q => ?_⟩, ?_, ?_⟩
  · rw [hs]; exact h.enabled q
  · exact h.groups.changed rfl fun q => by rw [hs]
  · rw [hs]; exact h.shelf.shelved q
  · exact Alarm.setPoint_lampLaw p _ h.lamps
  · exact (Alarm.ClaimLaw.closed false false c).keep a p _ rfl rfl h.claims

theorem Alarm.deliver_tables (h : a.Tables e.config) (p : PointId) (v : Bool) : (a.deliver e p v).Tables e.config :=
  (Alarm.deliver_turns e p v a).keeps (fun _ _ => Alarm.Turn.tables) (Alarm.setCondition_tables h p v)

theorem Alarm.deliver_channelLaw (he : e.defer = false) (h : a.sounder.ChannelLaw e.test) (p : PointId) (v : Bool) :
    (a.deliver e p v).sounder.ChannelLaw e.test :=
  (Alarm.deliver_turns e p v a).keeps (P := fun a => a.sounder.ChannelLaw e.test) (fun _ _ => Alarm.Turn.channelLaw he) h

end Sys2Proof.Machine
end


section
/-! SUPPORT. What a step can do to the part, said once: every command is a run of the changes of `Part.Change`, and every
invariant of the steps is proved change by change. -/

namespace Sys2Proof.Machine

/-! ## What lies beside the alarms -/

/-- From `s` to `t` nothing has changed of what the alarm laws and the configuration's laws read, but that link `x` may have
fallen or ceased to be SILENT, and that staging may have been dropped or begun afresh: queues, transmitters, streams, records, timers of links
and keys, levels, the session. -/
structure Part.BesideBut (x : Option LinkId) (s t : Part) : Prop where
  active : t.active = s.active
  mode : t.manager.mode = s.manager.mode
  staging : ∀ c, t.manager.staging = some c → s.manager.staging = some c ∨ c = s.active
  lines : t.lines = s.lines
  conditions : t.conditions = s.conditions
  alarm : t.alarm = { s.alarm with journal := t.alarm.journal }
  elapsed : t.alarm.journal.elapsed = s.alarm.journal.elapsed
  testSet : t.panel.testSet = s.panel.testSet
  relays : t.panel.relays = s.panel.relays
  states : ∀ l, some l ≠ x → ((t.link l).state = .silent ↔ (s.link l).state = .silent)

/-- The same, with each link as SILENT as it was. -/
abbrev Part.Beside : Part → Part → Prop := Part.BesideBut none

theorem Part.BesideBut.refl (x : Option LinkId) (s : Part) : Part.BesideBut x s s :=
  ⟨rfl, rfl, fun _ => .inl, rfl, rfl, rfl, rfl, rfl, rfl, fun _ _ => Iff.rfl⟩

theorem Part.BesideBut.trans {x : Option LinkId} {s t u : Part} (h : Part.BesideBut x s t) (h' : Part.BesideBut x t u) :
    Part.BesideBut x s u where
  active := h'.active.trans h.active
  mode := h'.mode.trans h.mode
  staging c hc := (h'.staging c hc).elim (h.staging c) fun hc => .inr (hc.trans h.active)
  lines := h'.lines.trans h.lines
  conditions := h'.conditions.trans h.conditions
  alarm := by rw [h'.alarm, h.alarm]
  elapsed := h'.elapsed.trans h.elapsed
  testSet := h'.testSet.trans h.testSet
  relays := h'.relays.trans h.relays
  states l hl := (h'.states l hl).trans (h.states l hl)

theorem Part.BesideBut.but {s t : Part} (h : Part.BesideBut none s t) (x : Option LinkId) : Part.BesideBut x s t :=
  { h with states := fun l _ => h.states l nofun }

section
variable {s : Part} {l : LinkId}

/-- A change of a link that leaves it SILENT or not. -/
theorem Part.setLink_beside {v : Link} (h : v.state = .silent ↔ (s.link l).state = .silent) : Part.Beside s (s.setLink l v) where
  active := Part.setLink_active ..
  mode := by rw [Part.setLink_manager]
  staging c hc := .inl (by rwa [Part.setLink_manager] at hc)
  lines := Part.setLink_lines ..
  conditions := Part.setLink_conditions ..
  alarm := by rw [Part.setLink_alarm]
  elapsed := by rw [Part.setLink_alarm]
  testSet := by rw [Part.setLink_panel]
  relays := by rw [Part.setLink_panel]
  states m _ := by
    rw [Part.setLink_link_ite]
    split
    · next hm => rw [hm, h]
    · rfl

theorem Part.setLink_besideBut (s : Part) (l : LinkId) (v : Link) : Part.BesideBut (some l) s (s.setLink l v) :=
  { Part.setLink_beside (v := { v with state := (s.link l).state }) Iff.rfl with
    active := Part.setLink_active ..
    mode := by rw [Part.setLink_manager]
    staging := fun c hc => .inl (by rwa [Part.setLink_manager] at hc)
    lines := Part.setLink_lines ..
    conditions := Part.setLink_conditions ..
    alarm := by rw [Part.setLink_alarm]
    elapsed := by rw [Part.setLink_alarm]
    testSet := by rw [Part.setLink_panel]
    relays := by rw [Part.setLink_panel]
    states := fun m hm => by rw [Part.setLink_link_ite, if_neg fun h => hm (congrArg some h)] }

/-- A change of the Journal that leaves the elapsed count. -/
theorem Part.setJournal_beside {j : Journal} (h : j.elapsed = s.alarm.journal.elapsed) : Part.Beside s (s.setJournal j) :=
  ⟨rfl, rfl, fun _ => .inl, rfl, rfl, rfl, h, rfl, rfl, fun l _ => by rw [Part.setJournal_link]⟩

theorem Part.append_beside (b : RecordBody) (s : Part) : Part.Beside s (s.append b) :=
  Part.setJournal_beside (Journal.append_elapsed ..)

/-- A change of the Configuration Manager that leaves the mode, and the staging unless it is dropped or begun afresh. -/
theorem Part.manager_beside {m : Manager} (h1 : m.mode = s.manager.mode)
    (h2 : ∀ c, m.staging = some c → s.manager.staging = some c ∨ c = s.active) : Part.Beside s { s with manager := m } :=
  ⟨rfl, h1, h2, rfl, rfl, rfl, rfl, rfl, rfl, fun l _ => by cases l <;> rfl⟩

/-- A change of the panel that leaves the test set and the relays. -/
theorem Part.panel_beside {p : Panel} (h1 : p.testSet = s.panel.testSet) (h2 : p.relays = s.panel.relays) :
    Part.Beside s { s with panel := p } :=
  ⟨rfl, rfl, fun _ => .inl, rfl, rfl, rfl, rfl, h1, h2, fun l _ => by cases l <;> rfl⟩

/-- A change of the levels presented from outside, of the key lines and of the model's own counter. -/
theorem Part.ports_beside (s : Part) (i : BitVec 24) (k : KeyLines) (n : Nat) :
    Part.Beside s { s with inputs := i, keyLines := k, free := n } :=
  ⟨rfl, rfl, fun _ => .inl, rfl, rfl, rfl, rfl, rfl, rfl, fun l _ => by cases l <;> rfl⟩

theorem Part.transmit_beside (l : LinkId) (s : Part) : Part.Beside s (s.transmit l) := by
  unfold Part.transmit
  simp only
  split
  · exact .refl _ s
  · split
    · exact Part.setLink_beside Iff.rfl
    · split
      · split
        · next t _ =>
          refine (Part.setJournal_beside (j := s.alarm.journal.setStream l t) (Journal.setStream_elapsed ..)).trans
            (Part.setLink_beside ?_)
          rw [Part.setJournal_link]
        · exact .refl _ s
      · exact .refl _ s

theorem Part.serve_beside (s : Part) : Part.Beside s s.serve := (Part.transmit_beside .a s).trans (Part.transmit_beside .b _)

theorem Part.begin_beside (l : LinkId) (f : Frame) (s : Part) : Part.Beside s (s.begin l f) := Part.setLink_beside Iff.rfl

theorem Part.conclude_beside (l : LinkId) (f : Frame) (ans : Answer) (s : Part) : Part.Beside s (s.conclude l f ans) :=
  (Part.setLink_beside (v := (s.link l).finish f ans) Iff.rfl).trans (Part.serve_beside _)

theorem Part.repeatReply_beside (l : LinkId) (r : Reply) (s : Part) : Part.Beside s (s.repeatReply l r) :=
  (Part.setLink_beside (v := { (s.link l).place r with executing := none }) Iff.rfl).trans (Part.serve_beside _)

theorem Link.finish_silent (f : Frame) (ans : Answer) (k : Link) :
    (k.finish f ans).state = .silent ↔ k.state = .silent := Iff.rfl

theorem Part.abandonCheck_beside (s : Part) : Part.Beside s s.abandonCheck := by
  unfold Part.abandonCheck
  split
  · have hm : Part.Beside s { s with manager := { s.manager with check := none } } :=
      Part.manager_beside rfl fun _ => .inl
    simp only
    split
    · next f _ => exact hm.trans (Part.setLink_beside (Link.finish_silent f _ _))
    · exact hm
  · exact .refl _ s

theorem Part.loseSession_beside (o : LinkId) (s : Part) : Part.Beside s (s.loseSession o) := by
  unfold Part.loseSession
  split
  · exact .refl _ s
  · have hm : Part.Beside s { s with manager := { s.manager with holder := none, sessionId := 0, staging := none } } :=
      Part.manager_beside rfl (by simp)
    exact hm.trans (Part.append_beside ..)

theorem Part.endForRestart_beside (l : LinkId) (s : Part) : Part.Beside s (s.endForRestart l) :=
  (Part.abandonCheck_beside s).trans (Part.loseSession_beside l _)

end

/-! ## The changes of a step -/

/-- A change of the alarms, the conditions or the configuration after which the relays are settled. -/
inductive Part.Acted : Part → Part → Prop
  | turned (s : Part) (a : Alarm) (h : Alarm.Turns (s.env .part) s.alarm a) : Acted s { s with alarm := a }
  | asserted (s : Part) (l : LinkId) (v : Bool) (ps : List PointId) (h : v = true → ∀ p ∈ ps, s.sourceOpen l p = true) :
      Acted s (ps.foldl (Part.assertOne l v) s)
  | scanned (s : Part) (levels : BitVec 24) : Acted s (s.scan levels)
  | relinked (s u : Part) (l : LinkId) (h : Part.BesideBut (some l) s u) :
      Acted s (u.resolveAll (.link l) (u.pointsOn (.silent l)))
  | rebuilt (s : Part) : Acted s (s.act .part Alarm.warmRestart)
  | applied (s : Part) (c : Configuration) (h : LinkId) (hc : c = s.staged) (hp : c.check h = .passed) :
      Acted s (s.applyCommit c h)

/-- A change of the part. -/
inductive Part.Change : Part → Part → Prop
  | beside (s t : Part) (h : Part.Beside s t) : Change s t
  | staged (s : Part) (c : Configuration)
      (h : s.active.InTables → (∀ d, s.manager.staging = some d → d.InTables) → c.InTables) : Change s (s.setStaging c)
  | settled (s t : Part) (h : Part.Acted s t) : Change s t.settleRelays
  | still (s : Part) (a : Alarm) (h : Alarm.Turns (s.env .part) s.alarm a) (hp : a.points = s.alarm.points)
      (h0 : a.sounder.ch0.inLevel = s.alarm.sounder.ch0.inLevel) (h1 : a.sounder.ch1.inLevel = s.alarm.sounder.ch1.inLevel) :
      Change s { s with alarm := a }
  | played (s : Part) (c : ChanId) (v : Channel) (hm : v.mode = (s.channel c).mode)
      (ht : v.chirpTimer = (s.channel c).chirpTimer) : Change s (s.setChannel c v)
  | hushed (s : Part) (c : ChanId) (h : (s.channel c).chirpTimer ≠ none) : Change s (s.setChannel c (s.channel c).goIdle)
  | tested (s : Part) (o : Origin) (t : TestSet) : Change s (s.changeTestSet o t)
  | ticked (s : Part) (h : s.dueCommands = []) : Change s s.endCount.tick
  | reset (s : Part) (p : Straps) : Change s (s.fullReset p)

/-- Changes one after the other. -/
abbrev Part.Changes : Part → Part → Prop := Relation.ReflTransGen Part.Change

theorem Part.Change.changes {s t : Part} (h : Part.Change s t) : Part.Changes s t := .single h

theorem Part.BesideBut.changes {s t : Part} (h : Part.BesideBut none s t) : Part.Changes s t := (Part.Change.beside s t h).changes

theorem Part.Acted.changes {s t : Part} (h : Part.Acted s t) : Part.Changes s t.settleRelays :=
  (Part.Change.settled s t h).changes

/-- What every change keeps, a run of changes keeps. -/
theorem Part.Changes.keeps {P : Part → Prop} (h : ∀ s t, Part.Change s t → P s → P t) {s t : Part}
    (ht : Part.Changes s t) (hs : P s) : P t := by
  induction ht with
  | refl => exact hs
  | tail _ hbc ih => exact h _ _ hbc ih

/-- An operation on alarms carried out for an origin, as a run of turns. -/
theorem Part.act_acted {s : Part} (o : Origin) {f : Env → Alarm → Alarm}
    (h : Alarm.Turns (s.env o) s.alarm (f (s.env o) s.alarm)) : Part.Acted s (s.act o f) :=
  .turned s _ (Alarm.Turns.origin (e := s.env .part) o h)

/-! ## Requests -/

/-- A request whose block makes a run of changes makes a run of changes, with its frame begun and concluded (R172). -/
theorem Part.execute_changes {l : LinkId} {k : RequestKind} {mine : List Byte → Bool}
    {body : LinkId → List Byte → Part → Part × Option Answer} (h : ∀ b s, Part.Changes s (body l b s).1) (s : Part) :
    Part.Changes s (s.execute l k mine body) := by
  unfold Part.execute
  split
  · exact .refl
  · next f _ =>
    split
    · simp only
      have hb : Part.Changes s (s.begin l f) := (Part.begin_beside l f s).changes
      split
      · exact hb.trans (Part.repeatReply_beside l _ _).changes
      · split
        · exact hb.trans (Part.conclude_beside l f _ _).changes
        · split
          · exact hb.trans (Part.conclude_beside l f _ _).changes
          · have hm := h f.body (s.begin l f)
            split
            · next heq =>
              rw [heq] at hm
              exact (hb.trans hm).trans (Part.conclude_beside l f _ _).changes
            · next heq =>
              rw [heq] at hm
              exact (hb.trans hm).trans (Part.serve_beside _).changes
    · exact .refl

theorem Part.request_changes {l : LinkId} {k : RequestKind} {body : LinkId → List Byte → Part → Part × Answer}
    (h : ∀ b s, Part.Changes s (body l b s).1) (s : Part) : Part.Changes s (s.request l k body) :=
  Part.execute_changes (fun b s => h b s) s

theorem Part.executeUnknown_changes (l : LinkId) (s : Part) : Part.Changes s (s.executeUnknown l) := by
  unfold Part.executeUnknown
  split
  · exact .refl
  · next f _ =>
    have hb : Part.Changes s (s.begin l f) := (Part.begin_beside l f s).changes
    split
    · simp only
      split
      · exact hb.trans (Part.repeatReply_beside l _ _).changes
      · exact hb.trans (Part.conclude_beside l f _ _).changes
    · exact .refl

end Sys2Proof.Machine
end


section
/-! SUPPORT. Every command is a run of changes (`exec_changes`), and so is every step (`step_changes`). -/

namespace Sys2Proof.Machine

variable {s : Part}

theorem Part.settleRelays_settleRelays (s : Part) : s.settleRelays.settleRelays = s.settleRelays := rfl

theorem Part.setTestTimer_beside (l : LinkId) (t : Timer) (s : Part) : Part.Beside s (s.setTestTimer l t) :=
  Part.panel_beside (Panel.setTestTimer_testSet ..) (Panel.setTestTimer_relays ..)

theorem Part.setKey_beside (k : KeyId) (q : KeyQualifier) (s : Part) : Part.Beside s (s.setKey k q) :=
  Part.panel_beside (Panel.setKey_testSet ..) (Panel.setKey_relays ..)

/-! ## Changes that reach no alarm -/

theorem Part.changeTestSet_changes (o : Origin) (t : TestSet) (s : Part) : Part.Changes s (s.changeTestSet o t) :=
  (Part.Change.tested s o t).changes

theorem Part.loseSession_changes (l : LinkId) (s : Part) : Part.Changes s (s.loseSession l) :=
  (Part.loseSession_beside l s).changes

theorem Part.setStream_beside (l : LinkId) (t : Stream) (s : Part) : Part.Beside s (s.setStream l t) :=
  Part.setJournal_beside (Journal.setStream_elapsed ..)

/-- A chirp starts on an idle channel or extends a chirp: no channel enters or leaves a level (R89). -/
theorem Sounder.chirp_inLevel (now : Nat) (x : Sounder) :
    (x.chirp now).1.ch0.inLevel = x.ch0.inLevel ∧ (x.chirp now).1.ch1.inLevel = x.ch1.inLevel := by
  have hl (c d : Channel) (hc : c.mode = .chirp ∨ c.mode = .idle) (hd : d.mode = .chirp) : d.inLevel = c.inLevel := by
    unfold Channel.inLevel
    rcases hc with hc | hc <;> rw [hc, hd]
  unfold Sounder.chirp
  split
  · next h => exact ⟨hl _ _ (.inl ((Channel.chirping_iff _).mp h)) (Channel.extendChirp_mode ..), rfl⟩
  · split
    · next h => exact ⟨rfl, hl _ _ (.inl ((Channel.chirping_iff _).mp h)) (Channel.extendChirp_mode ..)⟩
    · split
      · next h => exact ⟨rfl, hl _ _ (.inr h) (Channel.startChirp_mode ..)⟩
      · exact ⟨rfl, rfl⟩

theorem Part.chirp_changes (s : Part) : Part.Changes s s.chirp.1 :=
  (Part.Change.still s s.alarm.chirp (Alarm.Turn.chirp _).turns rfl (Sounder.chirp_inLevel ..).1
    (Sounder.chirp_inLevel ..).2).changes

/-! ## The requests' blocks -/

theorem Part.newEpoch_changes (l : LinkId) (n : Nat) (s : Part) : Part.Changes s (s.newEpoch l n) := by
  unfold Part.newEpoch
  simp only [Part.dropAssertions_eq]
  have hj (s : Part) : Part.Beside s { s with alarm := { s.alarm with journal := s.alarm.journal.endStream l } } :=
    Part.setStream_beside l {} s
  have h3 := ((Part.append_beside { kind := .epoch, origin := .link l, detail := some n } s).trans
    (Part.setLink_beside (l := l) (v := { (s.append { kind := .epoch, origin := .link l, detail := some n }).link l with
      epoch := n, cache := none }) Iff.rfl)).trans (hj _)
  have hdrop (t : Part) : Part.Changes t (allPoints.foldl (Part.assertOne l false) t).settleRelays :=
    (Part.Acted.asserted t l false allPoints nofun).changes
  refine Relation.ReflTransGen.trans ?_ (hdrop _)
  split
  · exact h3.changes.trans (Part.loseSession_changes ..)
  · exact h3.changes

theorem helloBody_changes (l : LinkId) (b : List Byte) (s : Part) : Part.Changes s (helloBody l b s).1 := by
  unfold helloBody
  simp only
  split
  · exact .refl
  · split
    · exact .refl
    · exact Part.newEpoch_changes l _ s

theorem readLinkStatusBody_changes (l : LinkId) (b : List Byte) (s : Part) :
    Part.Changes s (readLinkStatusBody l b s).1 := by
  unfold readLinkStatusBody
  split
  · exact .refl
  · split
    · exact .refl
    · simp only
      split
      · exact Part.BesideBut.changes (Part.setLink_beside (v := (s.link _).clearCounters) Iff.rfl)
      · exact .refl

theorem readPointBody_fst (l : LinkId) (b : List Byte) (s : Part) : (readPointBody l b s).1 = s := by
  unfold readPointBody
  simp only
  split_ifs <;> rfl

/-- The points of a checked list are open to the link (R39). -/
theorem Part.checkList_open {l : LinkId} {n : Nat} {b : List Byte} {ps : List PointId} (h : s.checkList l n b = .ok ps) :
    ∀ p ∈ ps, s.sourceOpen l p = true := by
  induction b generalizing n ps with
  | nil => cases h; exact nofun
  | cons c rest ih =>
    unfold Part.checkList at h
    split at h
    · cases h
    · split at h
      · next hp =>
        split at h
        · next hrest =>
          cases h
          intro q hq
          rcases List.mem_cons.mp hq with rfl | hq
          · exact hp
          · exact ih hrest q hq
        · cases h
      · cases h

theorem assertBody_changes (v : Bool) (l : LinkId) (b : List Byte) (s : Part) :
    Part.Changes s (assertBody v l b s).1 := by
  unfold assertBody
  split
  · exact .refl
  · next ps h =>
    simp only [Part.assertAll_fst]
    exact (Part.Acted.asserted s l v ps fun _ => Part.checkList_open h).changes

theorem Part.withAlarm_changes {o : Origin} {a : Alarm} (h : Alarm.Turns (s.env o) s.alarm a) :
    Part.Changes s ({ s with alarm := a } : Part).settleRelays :=
  (Part.act_acted (s := s) o (f := fun _ _ => a) h).changes

theorem actionBody_changes {f : Env → Alarm → Alarm × Nat} (hf : ∀ e a, Alarm.Turns e a (f e a).1) (l : LinkId)
    (b : List Byte) (s : Part) : Part.Changes s (actionBody f l b s).1 :=
  Part.withAlarm_changes (hf (s.env (.link l)) s.alarm)

theorem Part.onPoint_changes {l : LinkId} {p : PointId} {f : Env → Alarm → Alarm}
    (h : Alarm.Turns (s.env (.link l)) s.alarm (f (s.env (.link l)) s.alarm)) : Part.Changes s (s.onPoint l p f).1 :=
  (Part.act_acted (.link l) h).changes

theorem acknowledgePointBody_changes (l : LinkId) (b : List Byte) (s : Part) :
    Part.Changes s (acknowledgePointBody l b s).1 := by
  unfold acknowledgePointBody
  split
  · exact .refl
  · split
    · exact .refl
    · split
      · exact .refl
      · exact Part.onPoint_changes (Alarm.ack_turns ..)

theorem resetPointBody_changes (l : LinkId) (b : List Byte) (s : Part) : Part.Changes s (resetPointBody l b s).1 := by
  unfold resetPointBody
  split
  · exact .refl
  · split
    · exact .refl
    · next h => exact Part.onPoint_changes (Alarm.rst_turns _ (not_not.mp h))

theorem Alarm.unshelve_turns (e : Env) {p : PointId} {a : Alarm}
    (h : a.points[p].state = .shelved ∨ p ∈ a.shelf.map ShelfEntry.point) (cause : Cause) :
    Alarm.Turns e a (a.unshelve e p cause) :=
  (Alarm.Turn.unshelve a e.origin p cause h).turns

theorem unshelvePointBody_changes (l : LinkId) (b : List Byte) (s : Part) :
    Part.Changes s (unshelvePointBody l b s).1 := by
  unfold unshelvePointBody
  split
  · exact .refl
  · split
    · exact .refl
    · next h => exact Part.onPoint_changes (Alarm.unshelve_turns _ (.inl (not_not.mp h)) _)

theorem shelvePointBody_changes (l : LinkId) (b : List Byte) (s : Part) : Part.Changes s (shelvePointBody l b s).1 := by
  unfold shelvePointBody
  simp only
  split
  · exact .refl
  · next p _ =>
    split
    · exact .refl
    · next hm =>
      have hn : (s.alarm.newEntry p (.link l) (field b 1 2)).Allowed (s.env .part).config s.alarm := by
        refine ⟨rfl, .inl (Nat.le_of_not_lt fun h => ?_)⟩
        exact hm (within_eq_false.mpr (.inr h))
      have hshelve (h : ¬s.alarm.points[p].state.settled) : Part.Changes s
          (if Config.shelfSize ≤ s.alarm.shelf.length then (s, refuse .shelfFull (be 1 p.val ++ be 4 0 ++ be 1 16))
          else
            ((s.act (.link l) fun e a => a.shelve e (s.alarm.newEntry p (.link l) (field b 1 2)) .shelve).settleRelays,
              okAnswer ((s.act (.link l) fun e a =>
                a.shelve e (s.alarm.newEntry p (.link l) (field b 1 2)) .shelve).settleRelays.shelveData p
                  (s.alarm.newEntry p (.link l) (field b 1 2)).expiry))).1 := by
        split
        · exact .refl
        · next hl =>
          refine (Part.act_acted (.link l) (Alarm.Turns.origin (e := s.env (.link l)) .part ?_)).changes
          exact (Alarm.Turn.shelve s.alarm (.link l) _ .shelve h (Nat.lt_of_not_le hl) hn).turns
      split
      · exact .refl
      · next h =>
        exact (Part.Change.still s _ (Alarm.Turn.extend s.alarm _ h hn).turns rfl rfl rfl).changes
      all_goals
        next h => exact hshelve (by rw [h]; simp [PointState.settled])

theorem testBeginBody_changes (l : LinkId) (b : List Byte) (s : Part) : Part.Changes s (testBeginBody l b s).1 := by
  unfold testBeginBody
  simp only
  split
  · exact .refl
  · exact (Part.changeTestSet_changes ..).trans (Part.setTestTimer_beside ..).changes

theorem Part.leaveTest_changes (l : LinkId) (o : Origin) (s : Part) : Part.Changes s (s.leaveTest l o) :=
  (Part.changeTestSet_changes ..).trans (Part.setTestTimer_beside ..).changes

theorem testEndBody_changes (l : LinkId) (b : List Byte) (s : Part) : Part.Changes s (testEndBody l b s).1 := by
  unfold testEndBody
  split
  · exact .refl
  · exact Part.leaveTest_changes ..

theorem subscribeBody_changes (l : LinkId) (b : List Byte) (s : Part) : Part.Changes s (subscribeBody l b s).1 := by
  have hsub (c n : Nat) (g : Option Gap) : Part.Changes s (s.subscribeTo l c n g).1 := (Part.setStream_beside ..).changes
  have hfrom (n m : Nat) (x : SeqPlace) : Part.Changes s (s.subscribeFrom l n m x).1 := by
    cases x with
    | newer => exact .refl
    | held _ => exact hsub _ _ _
    | next => exact hsub _ _ _
    | lost _ => exact hsub _ _ _
  unfold subscribeBody
  simp only
  split_ifs
  · exact .refl
  · exact .refl
  · exact hsub _ _ _
  · exact hsub _ _ _
  · exact .refl
  · exact hfrom _ _ _

theorem grantCreditsBody_changes (l : LinkId) (b : List Byte) (s : Part) : Part.Changes s (grantCreditsBody l b s).1 := by
  unfold grantCreditsBody
  simp only
  split_ifs
  · exact .refl
  · exact .refl
  · exact (Part.setStream_beside ..).changes

theorem unsubscribeBody_changes (l : LinkId) (b : List Byte) (s : Part) : Part.Changes s (unsubscribeBody l b s).1 :=
  (Part.setStream_beside ..).changes

theorem fetchBody_fst (l : LinkId) (b : List Byte) (s : Part) : (fetchBody l b s).1 = s := by
  unfold fetchBody
  simp only
  split_ifs <;> rfl

theorem setClockBody_changes (l : LinkId) (b : List Byte) (s : Part) : Part.Changes s (setClockBody l b s).1 :=
  (Part.setJournal_beside (j := { s.alarm.journal with clock := field b 0 6, basis := .calendar }) rfl).changes.trans
    (Part.append_beside ..).changes

theorem openSessionBody_changes (l : LinkId) (b : List Byte) (s : Part) : Part.Changes s (openSessionBody l b s).1 := by
  unfold openSessionBody
  split
  · refine (Part.BesideBut.changes (Part.manager_beside ?_ fun c hc => .inr ?_)).trans (Part.append_beside ..).changes
    · rfl
    · exact (Option.some.inj hc).symm
  · split <;> exact .refl

theorem closeSessionBody_changes (l : LinkId) (b : List Byte) (s : Part) : Part.Changes s (closeSessionBody l b s).1 := by
  unfold closeSessionBody
  split
  · exact .refl
  · exact (Part.append_beside ..).changes.trans (Part.BesideBut.changes (Part.manager_beside rfl (by simp)))

theorem discardBody_changes (l : LinkId) (b : List Byte) (s : Part) : Part.Changes s (discardBody l b s).1 := by
  unfold discardBody
  split
  · exact .refl
  · exact Part.BesideBut.changes (Part.manager_beside rfl fun c hc => .inr (Option.some.inj hc).symm)

theorem commitBody_changes (l : LinkId) (b : List Byte) (s : Part) : Part.Changes s (commitBody l b s).1 := by
  unfold commitBody
  split
  · exact .refl
  · exact (Part.BesideBut.changes (Part.manager_beside (m := { s.manager with
      check := some (clockAfter s.alarm.journal.elapsed (checkTime s.free)) }) rfl fun _ => .inl)).trans
      (Part.ports_beside _ _ _ (s.free + 1)).changes

theorem restartWarmBody_changes (l : LinkId) (b : List Byte) (s : Part) : Part.Changes s (restartWarmBody l b s).1 := by
  unfold restartWarmBody
  split
  · exact .refl
  · exact ((Part.endForRestart_beside l s).trans (Part.append_beside ..)).changes.trans (Part.Acted.rebuilt _).changes

theorem restartColdBody_changes (l : LinkId) (b : List Byte) (s : Part) : Part.Changes s (restartColdBody l b s).1 := by
  unfold restartColdBody
  split
  · exact .refl
  · refine (Part.endForRestart_beside l s).changes.trans (Part.BesideBut.changes ?_)
    refine Part.BesideBut.trans (Part.manager_beside ?_ ?_) (Part.setLink_beside ?_)
    · rfl
    · exact fun _ => .inl
    · rfl

end Sys2Proof.Machine
end


section
/-! SUPPORT. The staging requests write only records whose fields lie in their tables (R149); the events, every command and
every step as runs of changes. -/

namespace Sys2Proof.Machine

variable {s : Part}

/-! ## A record written from checked fields lies in its tables (R149) -/

theorem firstBad_eq_none {n : Nat} {fs : List (Nat × Bool)} (h : firstBad n fs = none) : ∀ x ∈ fs, x.2 = true := by
  induction fs generalizing n with
  | nil => exact nofun
  | cons y fs ih =>
    obtain ⟨v, ok⟩ := y
    unfold firstBad at h
    cases ok with
    | false => simp at h
    | true =>
      intro x hx
      rcases List.mem_cons.mp hx with rfl | hx
      · rfl
      · exact ih (by simpa using h) x hx

theorem within_bounds {lo hi v : Nat} (h : within lo hi v = true) : lo ≤ v ∧ v ≤ hi := by
  rw [within_eq] at h
  exact of_decide_eq_true h

theorem Configuration.InTables.setPoint {c : Configuration} (hc : c.InTables) (p : PointId) {r : List Byte}
    (h : ∀ x ∈ pointFields r, x.2 = true) : ({ c with points := c.points.set p (pointRecordOf r) } : Configuration).InTables := by
  refine { hc with points := fun q => ?_ }
  rw [getElem_set_fin]
  split
  · simp only [pointFields, List.forall_mem_cons, Bool.or_eq_true, decide_eq_true_eq] at h
    obtain ⟨-, -, -, -, -, -, hlimit, hshelve, hremind, -⟩ := h
    exact ⟨hlimit.imp id within_bounds, (within_bounds hshelve).1, (within_bounds hshelve).2, (within_bounds hremind).2⟩
  · exact hc.points q

theorem Configuration.InTables.setLine {c : Configuration} (hc : c.InTables) (i : LineId) {r : List Byte}
    (h : ∀ x ∈ lineFields r, x.2 = true) : ({ c with lines := c.lines.set i (lineRecordOf r) } : Configuration).InTables := by
  refine { hc with lines := fun q => ?_ }
  rw [getElem_set_fin]
  split
  · simp only [lineFields, List.forall_mem_cons] at h
    obtain ⟨-, hon, hoff, -⟩ := h
    exact ⟨(within_bounds hon).1, (within_bounds hon).2, (within_bounds hoff).1, (within_bounds hoff).2⟩
  · exact hc.lines q

theorem Configuration.InTables.setTone {c : Configuration} (hc : c.InTables) (t : ProfileId) {r : List Byte}
    (h : ∀ x ∈ toneFields r t, x.2 = true) : ({ c with tones := c.tones.withRecord r t } : Configuration).InTables := by
  cases t with
  | level l =>
    simp only [toneFields, List.forall_mem_cons] at h
    obtain ⟨ha, hb, hon, hoff, hstart, hend, hstep, -⟩ := h
    have hother : (c.tones.withRecord r (.level l)).chirp = c.tones.chirp ∧
        (c.tones.withRecord r (.level l)).test = c.tones.test := by cases l <;> exact ⟨rfl, rfl⟩
    refine { hc with levels := fun m => ?_, chirp := ?_, test := ?_ }
    · by_cases hm : m = l
      · subst hm
        simp only [ToneSet.withRecord, ToneSet.setLevel_level]
        exact ⟨ha, hb, hon, hoff, (within_bounds hstart).1, (within_bounds hstart).2, (within_bounds hend).1,
          (within_bounds hend).2, (within_bounds hstep).2⟩
      · simp only [ToneSet.withRecord, ToneSet.setLevel_level_ne _ _ hm]
        exact hc.levels m
    · exact hother.1 ▸ hc.chirp
    · exact hother.2 ▸ hc.test
  | chirp =>
    simp only [toneFields, List.forall_mem_cons] at h
    obtain ⟨hp, hd, hl, -⟩ := h
    refine { hc with levels := fun m => ?_, chirp := ?_ }
    · cases m
      · exact hc.levels .low
      · exact hc.levels .high
      · exact hc.levels .urgent
    · exact ⟨hp, (within_bounds hd).1, (within_bounds hd).2, (within_bounds hl).1, (within_bounds hl).2⟩
  | test =>
    simp only [toneFields, List.forall_mem_cons] at h
    obtain ⟨ha, hb, hon, hoff, hl, -⟩ := h
    refine { hc with levels := fun m => ?_, test := ?_ }
    · cases m
      · exact hc.levels .low
      · exact hc.levels .high
      · exact hc.levels .urgent
    · exact ⟨ha, hb, hon, hoff, (within_bounds hl).1, (within_bounds hl).2⟩

/-- A record written from fields that pass their checks leaves the configuration in its tables. -/
theorem Configuration.InTables.withRecord {c : Configuration} (hc : c.InTables) {n : RecordName} {r : List Byte}
    (h : ∀ x ∈ recordFields r n, x.2 = true) : (c.withRecord r n).InTables := by
  cases n with
  | point p => exact hc.setPoint p h
  | line i => exact hc.setLine i h
  | tone t => exact hc.setTone t h
  | relay i => exact { hc with }
  | link l =>
    simp only [recordFields, linkFields, List.forall_mem_cons] at h
    obtain ⟨-, hbeat, -⟩ := h
    simp only [Configuration.withRecord]
    have hlink (m : LinkId) : ((c.setLink l (linkRecordOf r)).link m).heartbeat ≤ 60 := by
      have hm : (c.setLink l (linkRecordOf r)).link m = if m = l then linkRecordOf r else c.link m := by
        cases l <;> cases m <;> rfl
      rw [hm]
      split
      · exact (within_bounds hbeat).2
      · exact hc.links m
    cases l <;> exact { hc with links := hlink }
  | global =>
    simp only [recordFields, globalFields, List.forall_mem_cons] at h
    exact { hc with window := within_bounds h.1 }

theorem Part.stageRecord_changes (l : LinkId) (name : Except Answer RecordName) (position : Nat) (r : List Byte)
    (s : Part) : Part.Changes s (s.stageRecord l name position (recordFields r) (Configuration.withRecord r)).1 := by
  unfold Part.stageRecord
  split
  · exact .refl
  · split
    · exact .refl
    · next n =>
      split
      · exact .refl
      · next hbad =>
        refine (Part.Change.staged s _ fun hact hst => ?_).changes
        refine Configuration.InTables.withRecord ?_ (firstBad_eq_none hbad)
        unfold Part.staged
        cases hs : s.manager.staging with
        | none => exact hact
        | some d => exact hst d hs

/-! ## The events -/

theorem Part.setLink_changes {l : LinkId} {v : Link} (h : v.state = .silent ↔ (s.link l).state = .silent) :
    Part.Changes s (s.setLink l v) :=
  (Part.setLink_beside h).changes

theorem Part.scanLines_changes (levels : BitVec 24) (s : Part) : Part.Changes s (s.scanLines levels) := by
  have hp : Part.Changes s (s.present levels) := (Part.ports_beside s levels s.keyLines s.free).changes
  unfold Part.scanLines
  split
  · exact (hp.trans (Part.Acted.scanned _ levels).changes).trans (Part.serve_beside _).changes
  · exact hp

theorem Part.setKeyLine_beside (k : KeyId) (v : KeyLine) (s : Part) : Part.Beside s (s.setKeyLine k v) :=
  Part.ports_beside s s.inputs _ s.free

theorem Part.sampleKey_changes (k : KeyId) (w : Wire) (s : Part) : Part.Changes s (s.sampleKey k w) := by
  unfold Part.sampleKey
  simp only
  split
  · exact (Part.setKeyLine_beside ..).changes.trans (Part.setKey_beside ..).changes
  · exact (Part.setKeyLine_beside ..).changes

theorem Part.keyAction_changes (k : KeyId) (s : Part) : Part.Changes s (s.keyAction k) := by
  cases k with
  | ack => exact (Part.act_acted .panel (f := fun e a => (a.ackAll e).1) (Alarm.ackAll_turns ..)).changes
  | silence => exact (Part.act_acted .panel (f := fun e a => (a.silence e).1) (Alarm.silence_turns ..)).changes
  | reset => exact (Part.act_acted .panel (f := fun e a => (a.resetAll e).1) (Alarm.resetAll_turns ..)).changes
  | test => exact Part.changeTestSet_changes ..

theorem Part.keyPressed_changes (k : KeyId) (s : Part) : Part.Changes s (s.keyPressed k) := by
  unfold Part.keyPressed
  split
  · exact .refl
  · refine (Part.append_beside { kind := .key, origin := .panel, detail := some (keyCode k) } s).changes.trans ?_
    simp only
    split
    · exact (Part.chirp_changes _).trans (Part.keyAction_changes k _)
    · exact Part.keyAction_changes k _

theorem Part.keyReleased_changes (k : KeyId) (s : Part) : Part.Changes s (s.keyReleased k) := by
  cases k with
  | test =>
    unfold Part.keyReleased
    simp only
    split
    · exact Part.changeTestSet_changes ..
    · exact .refl
  | ack => exact .refl
  | silence => exact .refl
  | reset => exact .refl

theorem Part.keySteady_changes (k : KeyId) (s : Part) : Part.Changes s (s.keySteady k) := by
  unfold Part.keySteady
  simp only
  split
  · exact (Part.setKey_beside ..).changes.trans (Part.keyPressed_changes k _)
  · exact (Part.setKey_beside ..).changes.trans (Part.keyReleased_changes k _)
  · exact (Part.setKey_beside ..).changes
  · exact (Part.setKey_beside ..).changes

theorem Part.keyExpired_changes (k : KeyId) (s : Part) : Part.Changes s (s.keyExpired k) := by
  unfold Part.keyExpired
  split
  · exact (Part.keySteady_changes k s).trans (Part.serve_beside _).changes
  · exact .refl

theorem Part.reminderExpired_changes (p : PointId) (s : Part) : Part.Changes s (s.reminderExpired p) := by
  unfold Part.reminderExpired
  split
  · next h =>
    obtain ⟨hst, hdue⟩ := Bool.and_eq_true_iff.mp h
    have hr : s.alarm.points[p].reminder ≠ none := fun hn => by rw [hn] at hdue; cases hdue
    have ht := (Alarm.Turn.remind (e := s.env .timer) s.alarm .timer p (of_decide_eq_true hst) hr).turns
    exact (Part.act_acted .timer (f := fun e a => a.remind e p) ht).changes.trans (Part.serve_beside _).changes
  · exact .refl

theorem Part.chatterExpired_changes (p : PointId) (s : Part) : Part.Changes s (s.chatterExpired p) := by
  unfold Part.chatterExpired
  split
  · exact (Part.Change.still s _ (Alarm.Turn.count s.alarm p {}).turns rfl rfl rfl).changes
  · exact .refl

theorem Part.cadenceExpired_changes (c : ChanId) (s : Part) : Part.Changes s (s.cadenceExpired c) := by
  have hn (now : Nat) (x : Channel) : (x.nextPhase now).mode = x.mode ∧ (x.nextPhase now).chirpTimer = x.chirpTimer := by
    unfold Channel.nextPhase
    split
    · exact ⟨rfl, rfl⟩
    · exact ⟨Channel.carry_mode .., Channel.carry_chirpTimer ..⟩
  unfold Part.cadenceExpired
  simp only
  split
  · exact (Part.Change.played s c _ (hn ..).1 (hn ..).2).changes
  · exact .refl

theorem Part.escalationExpired_changes (c : ChanId) (s : Part) : Part.Changes s (s.escalationExpired c) := by
  have hn (now : Nat) (x : Channel) : (x.escalate now).mode = x.mode ∧ (x.escalate now).chirpTimer = x.chirpTimer := by
    unfold Channel.escalate
    split
    · exact ⟨Channel.carry_mode .., Channel.carry_chirpTimer ..⟩
    · exact ⟨rfl, rfl⟩
    · exact ⟨rfl, rfl⟩
  unfold Part.escalationExpired
  simp only
  split
  · exact (Part.Change.played s c _ (hn ..).1 (hn ..).2).changes
  · exact .refl

theorem Part.chirpExpired_changes (c : ChanId) (s : Part) : Part.Changes s (s.chirpExpired c) := by
  unfold Part.chirpExpired
  split
  · next h =>
    refine (Part.Change.hushed s c fun hn => ?_).changes
    rw [hn] at h
    cases h
  · exact .refl

theorem Part.messageTestExpired_changes (l : LinkId) (s : Part) : Part.Changes s (s.messageTestExpired l) := by
  unfold Part.messageTestExpired
  split
  · exact (Part.leaveTest_changes ..).trans (Part.serve_beside _).changes
  · exact .refl

theorem Part.refreshExpired_changes (s : Part) : Part.Changes s s.refreshExpired := by
  unfold Part.refreshExpired
  split
  · exact (Part.panel_beside (s := s) (p := s.refreshLamps.panel) rfl rfl).changes
  · exact .refl

theorem Part.applyCommit_settled (c : Configuration) (h : LinkId) (s : Part) :
    (s.applyCommit c h).settleRelays = s.applyCommit c h := by
  rw [Part.applyCommit_eq]
  exact Part.settleRelays_settleRelays _

theorem Part.concludeCheck_changes (h : LinkId) (s : Part) : Part.Changes s (s.concludeCheck h).1 := by
  unfold Part.concludeCheck
  simp only
  split
  · exact .refl
  · next hp =>
    have ha := (Part.Acted.applied s s.staged h rfl hp).changes
    rwa [Part.applyCommit_settled] at ha

theorem Part.completeCheck_changes (s : Part) : Part.Changes s s.completeCheck := by
  have hm : Part.Changes s { s with manager := { s.manager with check := none } } :=
    Part.BesideBut.changes (Part.manager_beside rfl fun _ => .inl)
  unfold Part.completeCheck
  split
  · exact hm
  · next h _ =>
    simp only
    refine (hm.trans (Part.concludeCheck_changes h _)).trans ?_
    split
    · exact Part.setLink_changes (Link.finish_silent ..)
    · exact .refl

theorem Part.checkExpired_changes (s : Part) : Part.Changes s s.checkExpired := by
  unfold Part.checkExpired
  split
  · exact (Part.completeCheck_changes s).trans (Part.serve_beside _).changes
  · exact .refl

theorem Alarm.shelfDue_eq_some {a : Alarm} {p : PointId} (h : a.shelfDue = some p) : p ∈ a.shelf.map ShelfEntry.point := by
  unfold Alarm.shelfDue at h
  split at h
  · cases h
  · next n rest hs =>
    split at h
    · cases h
      rw [hs]
      exact List.mem_cons_self
    · cases h

theorem Part.shelfExpired_changes (s : Part) : Part.Changes s s.shelfExpired := by
  unfold Part.shelfExpired
  split
  · exact .refl
  · next p hp =>
    have ht := Alarm.unshelve_turns (s.env .timer) (.inr (Alarm.shelfDue_eq_some hp)) .expire
    exact (Part.act_acted .timer (f := fun e a => a.unshelve e p .expire) ht).changes.trans (Part.serve_beside _).changes

/-! ### Characters, silence -/

theorem Part.relinked_changes {u : Part} {l : LinkId} (h : Part.BesideBut (some l) s u) :
    Part.Changes s (u.resolveAll (.link l) (u.pointsOn (.silent l))).settleRelays := (Part.Acted.relinked s u l h).changes

theorem Part.heard_changes (l : LinkId) (s : Part) : Part.Changes s (s.heard l) := by
  unfold Part.heard
  simp only
  split
  · exact Part.setLink_changes Iff.rfl
  · next h =>
    refine (Part.setLink_changes ?_).trans (Part.append_beside ..).changes
    rw [h]
    simp
  · exact Part.relinked_changes ((Part.setLink_besideBut s l _).trans (Part.BesideBut.but (Part.append_beside ..) _))

theorem Part.fallSilent_changes (l : LinkId) (s : Part) : Part.Changes s (s.fallSilent l) := by
  have hlink := Part.setLink_besideBut s l { s.link l with state := .silent, supervision := none }
  have hrecord := hlink.trans ((Part.append_beside { kind := .linkSilent, origin := .link l } _).but _)
  have hcredits := hrecord.trans ((Part.setJournal_beside (j := Journal.zeroCredits l _) (Journal.setStream_elapsed ..)).but _)
  unfold Part.fallSilent
  refine Part.relinked_changes ?_
  simp only
  split
  · exact hcredits.trans (((Part.abandonCheck_beside _).trans (Part.loseSession_beside l _)).but _)
  · exact hcredits

theorem Link.enqueue_silent (f : Frame) (k : Link) : (k.enqueue f).state = .silent ↔ k.state = .silent := by
  unfold Link.enqueue
  simp only
  split
  · exact Iff.rfl
  · split <;> exact Iff.rfl

theorem Part.receive_changes (l : LinkId) (c : RxChar) (s : Part) : Part.Changes s (s.receive l c) := by
  have hcomplete (taken : List Byte) (crc : BitVec 16) (s : Part) : Part.Changes s (s.completeFrame l taken crc) := by
    have hidle : Part.Changes s (s.setLink l { s.link l with framer := .hunt, gapTimer := none }) :=
      Part.setLink_changes Iff.rfl
    unfold Part.completeFrame
    simp only
    split
    · exact (hidle.trans (Part.heard_changes l _)).trans (Part.setLink_changes (Link.enqueue_silent ..))
    · exact hidle.trans (Part.setLink_changes Iff.rfl)
  have htake (s : Part) : Part.Changes s (s.takeCharacter l c) := by
    unfold Part.takeCharacter
    simp only
    split
    · split
      · exact Part.setLink_changes Iff.rfl
      · exact .refl
    · exact .refl
    · split <;> exact Part.setLink_changes Iff.rfl
    · exact Part.setLink_changes Iff.rfl
    · split <;> exact Part.setLink_changes Iff.rfl
    · exact Part.setLink_changes Iff.rfl
    · exact Part.setLink_changes Iff.rfl
    · exact hcomplete ..
    · exact Part.setLink_changes Iff.rfl
  have habandon (late : Bool) : Part.Changes s (if late then s.setLink l (s.link l).abandonFrame else s) := by
    split
    · exact Part.setLink_changes Iff.rfl
    · exact .refl
  exact (habandon _).trans (htake _)

theorem Part.gapExpired_beside (l : LinkId) (s : Part) : Part.Beside s (s.gapExpired l) := by
  unfold Part.gapExpired
  split
  · exact Part.setLink_beside Iff.rfl
  · exact .refl _ s

theorem Part.supervisionExpired_changes (l : LinkId) (s : Part) : Part.Changes s (s.supervisionExpired l) := by
  unfold Part.supervisionExpired
  split
  · exact (Part.fallSilent_changes l s).trans (Part.serve_beside _).changes
  · exact .refl

theorem Part.transmitted_changes (l : LinkId) (p : Straps) (s : Part) : Part.Changes s (s.transmitted l p) := by
  unfold Part.transmitted
  simp only
  split
  · exact .refl
  · split
    · exact (Part.Change.reset s p).changes
    · next x _ _ =>
      have hfree : Part.Changes s (s.setLink l { s.link l with
          sending := none, replies := if x.isReply then (s.link l).replies.tail else (s.link l).replies }) :=
        Part.setLink_changes Iff.rfl
      exact hfree.trans (Part.serve_beside _).changes

/-! ## Commands and steps -/

theorem State.run_changes {f : Part → Part} {s t : State} (h : s.run f = .next t) (hf : Part.Changes s.toPart (f s.toPart)) :
    Part.Changes s.toPart t.toPart := by
  cases h
  exact hf

/-- Every command is a run of changes. -/
theorem exec_changes {c : Instr} {s t : State} (h : exec c s = .next t) : Part.Changes s.toPart t.toPart := by
  cases c with
  | hello l => exact State.run_changes h (Part.request_changes (helloBody_changes l) _)
  | ping l => exact State.run_changes h (Part.request_changes (fun _ _ => .refl) _)
  | readLinkStatus l => exact State.run_changes h (Part.request_changes (readLinkStatusBody_changes l) _)
  | readPoint l => exact State.run_changes h (Part.request_changes (fun b s => by rw [readPointBody_fst]) _)
  | readSummary l => exact State.run_changes h (Part.request_changes (fun _ _ => .refl) _)
  | readLines l => exact State.run_changes h (Part.request_changes (fun _ _ => .refl) _)
  | readGroups l => exact State.run_changes h (Part.request_changes (fun _ _ => .refl) _)
  | readShelf l => exact State.run_changes h (Part.request_changes (fun _ _ => .refl) _)
  | readSounders l => exact State.run_changes h (Part.request_changes (fun _ _ => .refl) _)
  | readPanel l => exact State.run_changes h (Part.request_changes (fun _ _ => .refl) _)
  | raise l => exact State.run_changes h (Part.request_changes (assertBody_changes true l) _)
  | clear l => exact State.run_changes h (Part.request_changes (assertBody_changes false l) _)
  | acknowledgeAll l => exact State.run_changes h (Part.request_changes (actionBody_changes Alarm.ackAll_turns l) _)
  | acknowledgePoint l => exact State.run_changes h (Part.request_changes (acknowledgePointBody_changes l) _)
  | silence l => exact State.run_changes h (Part.request_changes (actionBody_changes Alarm.silence_turns l) _)
  | resetAll l => exact State.run_changes h (Part.request_changes (actionBody_changes Alarm.resetAll_turns l) _)
  | resetPoint l => exact State.run_changes h (Part.request_changes (resetPointBody_changes l) _)
  | shelvePoint l => exact State.run_changes h (Part.request_changes (shelvePointBody_changes l) _)
  | unshelvePoint l => exact State.run_changes h (Part.request_changes (unshelvePointBody_changes l) _)
  | testBegin l => exact State.run_changes h (Part.request_changes (testBeginBody_changes l) _)
  | testEnd l => exact State.run_changes h (Part.request_changes (testEndBody_changes l) _)
  | chirp l => exact State.run_changes h (Part.request_changes (fun _ s => s.chirp_changes) _)
  | subscribe l => exact State.run_changes h (Part.request_changes (subscribeBody_changes l) _)
  | grantCredits l => exact State.run_changes h (Part.request_changes (grantCreditsBody_changes l) _)
  | unsubscribe l => exact State.run_changes h (Part.request_changes (unsubscribeBody_changes l) _)
  | fetch l => exact State.run_changes h (Part.request_changes (fun b s => by rw [fetchBody_fst]) _)
  | setClock l => exact State.run_changes h (Part.request_changes (setClockBody_changes l) _)
  | openSession l => exact State.run_changes h (Part.request_changes (openSessionBody_changes l) _)
  | stagePoint l => exact State.run_changes h (Part.request_changes (fun b s => s.stageRecord_changes l _ 2 _) _)
  | stageLine l => exact State.run_changes h (Part.request_changes (fun b s => s.stageRecord_changes l _ 2 _) _)
  | stageTone l => exact State.run_changes h (Part.request_changes (fun b s => s.stageRecord_changes l _ 2 _) _)
  | stageRelay l => exact State.run_changes h (Part.request_changes (fun b s => s.stageRecord_changes l _ 2 _) _)
  | stageLink l => exact State.run_changes h (Part.request_changes (fun b s => s.stageRecord_changes l _ 2 _) _)
  | stageGlobal l => exact State.run_changes h (Part.request_changes (fun b s => s.stageRecord_changes l _ 1 _) _)
  | readStaged l =>
    refine State.run_changes h (Part.request_changes (fun b s => ?_) _)
    unfold readStagedBody
    split
    · exact .refl
    · split <;> exact .refl
  | readActive l =>
    refine State.run_changes h (Part.request_changes (fun b s => ?_) _)
    unfold readActiveBody
    split <;> exact .refl
  | discard l => exact State.run_changes h (Part.request_changes (discardBody_changes l) _)
  | commit l => exact State.run_changes h (Part.execute_changes (commitBody_changes l) _)
  | closeSession l => exact State.run_changes h (Part.request_changes (closeSessionBody_changes l) _)
  | restartWarm l => exact State.run_changes h (Part.execute_changes (restartWarmBody_changes l) _)
  | restartCold l => exact State.run_changes h (Part.execute_changes (restartColdBody_changes l) _)
  | unknownKind l => exact State.run_changes h (Part.executeUnknown_changes l _)
  | lineScan levels => exact State.run_changes h (Part.scanLines_changes levels _)
  | keySample k w => exact State.run_changes h (Part.sampleKey_changes k w _)
  | keySteadyExpiry k => exact State.run_changes h (Part.keyExpired_changes k _)
  | reminderExpiry n =>
    change execReminderExpiry n s = _ at h
    unfold execReminderExpiry at h
    split at h
    · exact State.run_changes h (Part.reminderExpired_changes _ _)
    · cases h
  | shelfExpiry => exact State.run_changes h (Part.shelfExpired_changes _)
  | chatterWindowExpiry n =>
    change execChatterWindowExpiry n s = _ at h
    unfold execChatterWindowExpiry at h
    split at h
    · exact State.run_changes h (Part.chatterExpired_changes _ _)
    · cases h
  | cadencePhaseExpiry c => exact State.run_changes h (Part.cadenceExpired_changes c _)
  | escalationStep c => exact State.run_changes h (Part.escalationExpired_changes c _)
  | chirpTimerExpiry c => exact State.run_changes h (Part.chirpExpired_changes c _)
  | messageTestExpiry l => exact State.run_changes h (Part.messageTestExpired_changes l _)
  | lampRefresh => exact State.run_changes h (Part.refreshExpired_changes _)
  | commitCheckCompletion => exact State.run_changes h (Part.checkExpired_changes _)
  | receiveCharacter l c =>
    exact State.run_changes (f := fun p => (p.receive l c).serve) h
      ((Part.receive_changes l c _).trans (Part.serve_beside _).changes)
  | intraFrameGapExpiry l =>
    change execIntraFrameGapExpiry l s = _ at h
    unfold execIntraFrameGapExpiry at h
    split at h
    · cases h; exact .refl
    · exact State.run_changes h (Part.gapExpired_beside l _).changes
  | supervisionExpiry l => exact State.run_changes h (Part.supervisionExpired_changes l _)
  | transmitComplete l p => exact State.run_changes h (Part.transmitted_changes l p _)
  | fullReset p => exact State.run_changes h (Part.Change.reset _ p).changes

/-- Every step is a run of changes. -/
theorem step_changes {s t : State} (h : step s = .next t) : Part.Changes s.toPart t.toPart := by
  unfold step at h
  split at h
  · next rest _ => exact exec_changes (s := ⟨s.toPart, rest⟩) h
  · split at h
    · exact (Part.ports_beside s.toPart s.inputs s.keyLines (s.free + 1)).changes.trans
        (exec_changes (s := ⟨s.chosen, s.pending⟩) h)
    · next hd =>
      cases h
      refine (Part.Change.ticked s.toPart (by_contra fun hne => ?_)).changes
      obtain ⟨c, -, hc⟩ := Part.nextDue_some hne
      rw [hd] at hc
      cases hc

/-- What every change keeps, every step keeps. -/
theorem step_keeps {P : Part → Prop} (hP : ∀ s t, Part.Change s t → P s → P t) {s t : State} (h : step s = .next t)
    (hs : P s.toPart) : P t.toPart := (step_changes h).keeps hP hs

end Sys2Proof.Machine
end


section
/-! SUPPORT. The laws of the alarm blocks through a warm restart (R28, R60, R61, R77, R101). -/

namespace Sys2Proof.Machine

variable {e : Env} {a b : Alarm} {c : Configuration}

/-! ## The entry passes (R60) -/

/-- Each of these points, neither DISABLED nor SHELVED, begins a new occurrence while ABNORMAL. -/
theorem Alarm.foldl_newOccurrence_turns (e : Env) (cause : Cause) (ps : List PointId) (a : Alarm)
    (h : ∀ p ∈ ps, ¬a.points[p].state.settled ∧ a.points[p].abnormal = true) :
    Alarm.Turns e a (ps.foldl (fun a p => a.newOccurrence e p cause) a) := by
  induction ps generalizing a with
  | nil => exact .refl
  | cons p ps ih =>
    obtain ⟨hp, hab⟩ := h p List.mem_cons_self
    refine (Alarm.Turn.begin_ a e.origin p cause hp hab).turns.trans (ih _ fun q hq => ?_)
    obtain ⟨hq', hqab⟩ := h q (List.mem_cons_of_mem _ hq)
    have hs {t : PointState} (ht : t.settled) : (a.newOccurrence e p cause).points[q].state ≠ t := fun hst =>
      hq' (((Alarm.newOccurrence_settled ht ..).mp hst).2 ▸ ht)
    exact ⟨PointState.not_settled (hs (.inl rfl)) (hs (.inr rfl)), (Alarm.newOccurrence_abnormal ..).trans hqab⟩

theorem Alarm.passes_turns (e : Env) (cause : Cause) (ps : List PointId) (a : Alarm)
    (h : ∀ p ∈ ps, ¬a.points[p].state.settled ∧ a.points[p].abnormal = true) :
    Alarm.Turns e a (a.passes e cause ps) := by
  refine Alarm.foldl_newOccurrence_turns e cause _ a fun p hp => h p ?_
  rcases List.mem_append.mp hp with hp | hp <;> exact List.mem_of_mem_filter hp

/-! ## The blocks cleared (R28, R61, R77, R101) -/

theorem Alarm.warmClear_points (a : Alarm) (p : PointId) : a.warmClear.points[p] = a.points[p].warm :=
  Vector.getElem_map ..

theorem Point.warm_state (d : Point) : d.warm.state = .disabled ∧ d.state = .disabled ∧ d.warm = d ∨
    d.warm.state = .idle ∧ d.state ≠ .disabled ∧ d.warm.mark = false ∧ d.warm.hushed = false ∧ d.warm.reminder = none := by
  unfold Point.warm
  split
  · next h => exact .inl ⟨h, h, rfl⟩
  · next h => exact .inr ⟨rfl, h, rfl, rfl, rfl⟩

@[simp] theorem Point.warm_abnormal (d : Point) : d.warm.abnormal = d.abnormal := by
  unfold Point.warm; split <;> rfl

@[simp] theorem Point.warm_occurrence (d : Point) : d.warm.occurrence = d.occurrence := by
  unfold Point.warm; split <;> rfl

/-- After the clearing every point is DISABLED or IDLE. -/
theorem Alarm.warmClear_state (a : Alarm) (p : PointId) :
    a.warmClear.points[p].state = .disabled ∧ a.points[p].state = .disabled ∨
      a.warmClear.points[p].state = .idle ∧ a.points[p].state ≠ .disabled := by
  rw [Alarm.warmClear_points]
  rcases a.points[p].warm_state with ⟨h, hd, -⟩ | ⟨h, hd, -⟩
  · exact .inl ⟨h, hd⟩
  · exact .inr ⟨h, hd⟩

theorem Alarm.warmClear_inactive (a : Alarm) (p : PointId) : a.warmClear.points[p].state.active = false := by
  rcases a.warmClear_state p with ⟨h, -⟩ | ⟨h, -⟩ <;> rw [h] <;> rfl

theorem claimOf_of_ne {pc : PointConfig} {d : Point} (h : d.state ≠ .alerting) : claimOf pc d = none :=
  if_neg fun hd => h hd.1

theorem Alarm.warmClear_tables (h : a.Tables c) : a.warmClear.Tables c where
  enabled p := by
    rw [← h.enabled p]
    rcases a.warmClear_state p with ⟨h1, h2⟩ | ⟨h1, h2⟩ <;> simp [h1, h2, -Fin.getElem_fin]
  groups g := by
    have hg : a.warmClear.groupActive c g = false := Bool.eq_false_iff.mpr fun hg => by
      obtain ⟨q, -, hq⟩ := (Alarm.groupActive_iff ..).mp hg
      rw [Alarm.warmClear_inactive] at hq
      cases hq
    rw [hg]
    exact congrArg Group.armed (Vector.getElem_map ..)
  shelf := ⟨Nat.zero_le _, List.nodup_nil, fun p => by
    rcases a.warmClear_state p with ⟨h, -⟩ | ⟨h, -⟩ <;> rw [h] <;> exact ⟨nofun, nofun⟩⟩
  lamps p := by
    rw [Alarm.warmClear_points]
    exact Vector.getElem_map ..
  claims := ⟨List.nodup_nil, fun p => by
    rw [claimOf_of_ne]
    · rfl
    · rcases a.warmClear_state p with ⟨h, -⟩ | ⟨h, -⟩ <;> rw [h] <;> exact nofun⟩

theorem Alarm.warmClear_pointLaw (h : a.PointLaw c) : a.warmClear.PointLaw c where
  each p := by
    rw [Alarm.warmClear_points]
    rcases a.points[p].warm_state with ⟨-, -, hk⟩ | ⟨hs, -, hm, hh, hr⟩
    · rw [hk]; exact h.each p
    · refine ⟨fun hd => ?_, fun hd => ?_, fun hd => absurd hr hd, ?_, ?_, ?_⟩
      · rw [hh] at hd; cases hd
      · rw [hm] at hd; cases hd
      · rw [Point.warm_occurrence]; exact (h.each p).occurrence
      · rw [hs]; nofun
      · rw [hs]; nofun
  suppressed p hp := by
    rcases a.warmClear_state p with ⟨h, -⟩ | ⟨h, -⟩ <;> rw [h] at hp <;> cases hp

theorem Alarm.warmClear_sequenceLaw (h : a.SequenceLaw c) : a.warmClear.SequenceLaw c := by
  rw [Alarm.sequenceLaw_iff] at h ⊢
  intro p
  rw [Alarm.warmClear_points]
  rcases a.points[p].warm_state with ⟨-, -, hk⟩ | ⟨hs, -, -, -, hr⟩
  · rw [hk]; exact h p
  · exact ⟨by rw [hs]; nofun, by rw [hs]; nofun, by rw [hs]; nofun, fun _ => hr⟩

theorem Alarm.warmClear_shelfOrderLaw (a : Alarm) : a.warmClear.ShelfOrderLaw := ⟨.nil, nofun⟩

/-! ## The whole restart -/

/-- What a warm restart's operations read. -/
abbrev Env.warm (e : Env) : Env := { e with origin := .part, defer := true }

/-- The alarms after the entry passes of a warm restart, before its one evaluation. -/
def Alarm.warmPassed (e : Env) (a : Alarm) : Alarm := a.warmClear.passes e.warm .restart a.abnormalEnabled

theorem Alarm.warmRestart_eq (e : Env) (a : Alarm) : a.warmRestart e =
    { a.warmPassed e with
      sounder := (a.warmPassed e).sounder.afterWarm e.test (a.warmPassed e).journal.elapsed } := rfl

theorem Alarm.warmPassed_turns (e : Env) (a : Alarm) : Alarm.Turns e.warm a.warmClear (a.warmPassed e) := by
  refine Alarm.passes_turns _ _ _ _ fun p hp => ?_
  obtain ⟨hd, hab⟩ := Bool.and_eq_true_iff.mp (List.mem_filter.mp hp).2
  refine ⟨?_, by rw [Alarm.warmClear_points, Point.warm_abnormal]; exact hab⟩
  rcases a.warmClear_state p with ⟨-, h⟩ | ⟨h, -⟩
  · exact absurd h (of_decide_eq_true hd)
  · rw [h]; exact PointState.not_settled nofun nofun

/-- An evaluation, or the test tone, changes the channels alone. -/
theorem Sounder.afterWarm_claims (test : Bool) (now : Nat) (x : Sounder) :
    (x.afterWarm test now).claims1 = x.claims1 ∧ (x.afterWarm test now).claims2 = x.claims2 ∧
      (x.afterWarm test now).claims3 = x.claims3 := by
  unfold Sounder.afterWarm; split <;> exact ⟨rfl, rfl, rfl⟩

/-- The laws of the alarm blocks read the claim lists of the Sounder Controller, and not the channels. -/
theorem Alarm.Tables.sounder (h : a.Tables c) {x : Sounder} (h1 : x.claims1 = a.sounder.claims1)
    (h2 : x.claims2 = a.sounder.claims2) (h3 : x.claims3 = a.sounder.claims3) : Alarm.Tables c { a with sounder := x } where
  enabled := h.enabled
  groups := h.groups
  shelf := ⟨h.shelf.size, h.shelf.once, h.shelf.shelved⟩
  lamps := h.lamps
  claims := by
    refine ⟨?_, fun p => ?_⟩
    · simp only [h1, h2, h3]; exact h.claims.once
    · simp only [Sounder.claimLevel, h1, h2, h3]; exact h.claims.claims p

theorem Alarm.warmRestart_tables (h : a.Tables e.config) : (a.warmRestart e).Tables e.config := by
  obtain ⟨h1, h2, h3⟩ := Sounder.afterWarm_claims e.test (a.warmPassed e).journal.elapsed (a.warmPassed e).sounder
  exact ((a.warmPassed_turns e).keeps (fun _ _ => Alarm.Turn.tables) (Alarm.warmClear_tables h)).sounder h1 h2 h3

theorem Alarm.warmRestart_pointLaw (h : a.PointLaw e.config) : (a.warmRestart e).PointLaw e.config :=
  ((a.warmPassed_turns e).keeps (fun _ _ => Alarm.Turn.pointLaw) (Alarm.warmClear_pointLaw h)).congr rfl

theorem Alarm.warmRestart_sequenceLaw (h : a.SequenceLaw e.config) : (a.warmRestart e).SequenceLaw e.config :=
  ((a.warmPassed_turns e).keeps (fun _ _ => Alarm.Turn.sequenceLaw) (Alarm.warmClear_sequenceLaw h)).congr rfl

theorem Alarm.warmRestart_shelfOrderLaw (hc : e.config.InTables) (a : Alarm) : (a.warmRestart e).ShelfOrderLaw :=
  ((a.warmPassed_turns e).keeps (fun _ _ => Alarm.Turn.shelfOrderLaw (e := e.warm) hc) a.warmClear_shelfOrderLaw).congr rfl rfl

theorem Alarm.warmRestart_abnormal (e : Env) (a : Alarm) (p : PointId) :
    (a.warmRestart e).points[p].abnormal = a.points[p].abnormal :=
  (a.warmPassed_turns e).keeps (P := fun b => b.points[p].abnormal = a.points[p].abnormal)
    (fun _ _ h hb => (h.abnormal p).trans hb) (by rw [Alarm.warmClear_points, Point.warm_abnormal])

theorem Alarm.warmRestart_channelLaw (e : Env) (a : Alarm) : (a.warmRestart e).sounder.ChannelLaw e.test := by
  obtain ⟨h0, h1⟩ := (a.warmPassed_turns e).keeps (P := fun b => b.sounder.ch0.TimerLaw ∧ b.sounder.ch1.TimerLaw)
    (fun _ _ h => h.closed (Sounder.timers_closed ..)) ⟨Channel.goIdle_timer _, Channel.goIdle_timer _⟩
  rw [Alarm.warmRestart_eq]
  unfold Sounder.afterWarm
  cases e.test
  · exact Sounder.assign_channelLaw _ _ h0 h1
  · exact Sounder.startTest_channelLaw _ _

end Sys2Proof.Machine
end


section
/-! SUPPORT. The laws of the alarm blocks through a commit apply (R27, R57 to R60, R76, R100). -/

namespace Sys2Proof.Machine

variable {e : Env} {old : Configuration} {a b : Alarm}

/-! ## What every primitive change keeps while the evaluation waits -/

/-- The claims moved and the chatter records cleared at the start of an apply keep what the primitive changes keep, if a
claim passed on keeps it. -/
theorem Alarm.reclaim_keeps {P : Alarm → Prop} (hP : e.Keeps P) (hc : ∀ a p, P a → P (a.passClaim e p))
    (old : Configuration) (ha : P a) : P (allPoints.foldl (fun a p => (a.passClaim e p).applyChatter old e.config p) a) :=
  foldl_keeps (fun b p hb => Alarm.applyChatter_keeps hP old e.config p (hc b p hb)) allPoints ha

/-- What the primitive changes keep, and a claim passed on, and a group record replaced, an apply keeps. -/
theorem Alarm.apply_closed {P : Alarm → Prop} (hP : e.Keeps P) (hc : ∀ a p, P a → P (a.passClaim e p))
    (hg : ∀ (a : Alarm) (gs : Vector Group 8), P a → P { a with groups := gs }) (old : Configuration) (ha : P a) :
    P (a.apply e old) :=
  Alarm.apply_keeps hP old (fun _ _ => hg _ _) (Alarm.reclaim_keeps hP hc old ha)

theorem Alarm.apply_elapsed (e : Env) (old : Configuration) (a : Alarm) :
    (a.apply e old).journal.elapsed = a.journal.elapsed :=
  Alarm.apply_closed (P := fun b => b.journal.elapsed = a.journal.elapsed) (Alarm.elapsed_closed ..) (fun _ _ h => h)
    (fun _ _ h => h) old rfl

theorem Alarm.apply_lampLaw (h : a.LampLaw) : (a.apply e old).LampLaw :=
  Alarm.apply_closed (Alarm.LampLaw.closed ..) (fun _ _ h => h) (fun _ _ h => h) old h

/-- Each point claims in one place at most (R83). -/
def Alarm.ClaimsOnce (a : Alarm) : Prop := a.sounder.claimants.Nodup

theorem Alarm.ClaimsOnce.passClaim (e : Env) (p : PointId) (h : a.ClaimsOnce) : (a.passClaim e p).ClaimsOnce :=
  Sounder.passClaim_nodup _ _ _ _ _ _ h

theorem Alarm.ClaimsOnce.closed (test defer : Bool) (c : Configuration) : Alarm.Closed test defer c Alarm.ClaimsOnce where
  keep _ _ _ _ _ h := h
  claim e a p d _ _ _ h := Alarm.ClaimsOnce.passClaim (a := a.setPoint p d) e p h
  append _ _ h := h
  chirp a h := by
    rw [Alarm.ClaimsOnce, Alarm.chirp, Sounder.chirp_claimants]
    exact h
  groups _ _ _ _ h := h
  shelf _ _ h := h
  chatter _ _ h := h

theorem Alarm.apply_claimsOnce (h : a.ClaimsOnce) : (a.apply e old).ClaimsOnce :=
  Alarm.apply_closed (Alarm.ClaimsOnce.closed ..) (fun _ p => Alarm.ClaimsOnce.passClaim e p) (fun _ _ h => h) old h

/-- What stands of the channel law while the evaluation waits (R84, R96, R100). -/
structure Sounder.Waiting (test : Bool) (x : Sounder) : Prop where
  timer0 : x.ch0.TimerLaw
  timer1 : x.ch1.TimerLaw
  testing : test = true → x.ch0.mode = .test ∧ x.ch1.mode = .test

theorem Sounder.ChannelLaw.waiting {test : Bool} {x : Sounder} (h : x.ChannelLaw test) : x.Waiting test :=
  ⟨h.timer0, h.timer1, h.testing⟩

/-- The one evaluation of a commit apply restores the channel law. -/
theorem Sounder.Waiting.evaluate {test : Bool} {x : Sounder} (h : x.Waiting test) (now : Nat) (r : LevelSet) :
    (x.evaluate test now r).ChannelLaw test := by
  unfold Sounder.evaluate
  cases test
  · exact Sounder.assign_channelLaw now r h.timer0 h.timer1
  · exact ⟨h.timer0, h.timer1, h.testing, nofun⟩

theorem Sounder.Waiting.congr {test : Bool} {x y : Sounder} (h : x.Waiting test) (h0 : y.ch0 = x.ch0) (h1 : y.ch1 = x.ch1) :
    y.Waiting test := by
  obtain ⟨t0, t1, ht⟩ := h
  rw [← h0] at t0 ht
  rw [← h1] at t1 ht
  exact ⟨t0, t1, ht⟩

theorem Sounder.Waiting.passClaim {c : Configuration} {o : Origin} {test : Bool} (h : a.sounder.Waiting test) (p : PointId) :
    (a.passClaim ⟨c, test, true, o⟩ p).sounder.Waiting test :=
  h.congr (Sounder.passClaim_defer ..).1 (Sounder.passClaim_defer ..).2

/-- During test a chirp is dropped (R89, R96). -/
theorem Sounder.Waiting.chirp {test : Bool} (c : Configuration) (h : a.sounder.Waiting test) :
    a.chirp.sounder.Waiting test := by
  obtain ⟨t0, t1⟩ := (Sounder.timers_closed test c).chirp a ⟨h.timer0, h.timer1⟩
  refine ⟨t0, t1, fun ht => ?_⟩
  obtain ⟨h0, h1⟩ := h.testing ht
  simp [Alarm.chirp, Sounder.chirp, Channel.chirping, h0, h1]

theorem Sounder.Waiting.closed (test : Bool) (c : Configuration) :
    Alarm.Closed test true c fun a => a.sounder.Waiting test where
  keep _ _ _ _ _ h := h
  claim e a p d _ ht hd h := by
    subst ht
    obtain ⟨c, test, defer, o⟩ := e
    obtain rfl : defer = true := hd
    exact Sounder.Waiting.passClaim (a := a.setPoint p d) h p
  append _ _ h := h
  chirp _ h := h.chirp c
  groups _ _ _ _ h := h
  shelf _ _ h := h
  chatter _ _ h := h

theorem Alarm.apply_waiting (c : Configuration) (test : Bool) (o : Origin) (h : a.sounder.Waiting test) :
    (a.apply ⟨c, test, true, o⟩ old).sounder.Waiting test :=
  Alarm.apply_closed (P := fun a => a.sounder.Waiting test) (Sounder.Waiting.closed ..) (fun _ p h => h.passClaim p)
    (fun _ _ h => h) old h

/-! ## Steps 1 and 2, and the recomputation of marks and groups (R27, R57, R58) -/

/-- What a commit makes of a point in steps 1 and 2, for a point that stood as its enabled field directs. -/
theorem Alarm.Settled.cases (h : Alarm.Settled e old a b) (hen : a.EnabledLaw old) (p : PointId) :
    (b.points[p].state = .disabled ∧ e.config.points[p].enabled = false ∧ b.points[p].mark = false ∧
        b.points[p].hushed = false ∧ b.points[p].reminder = none ∧ a.points[p].state ≠ .disabled) ∨
    (b.points[p].state = .idle ∧ e.config.points[p].enabled = true ∧ b.points[p].mark = false ∧
        b.points[p].hushed = false ∧ b.points[p].reminder = none ∧ a.points[p].state ≠ .shelved) ∨
    (b.points[p] = a.points[p] ∧ e.config.points[p].enabled = old.points[p].enabled ∧
      (a.points[p].state = .disabled ∨ a.points[p].state = .shelved ∨
        old.points[p].source = e.config.points[p].source ∧ old.points[p].sequence = e.config.points[p].sequence)) := by
  have hp := h.points p
  have hd := hen p
  split at hp
  · next hdis =>
    refine .inl ⟨by rw [hp], hdis.2, by rw [hp], by rw [hp], by rw [hp], fun hs => ?_⟩
    obtain ⟨ho, -⟩ := hdis
    rw [hd.mp hs] at ho
    cases ho
  · next hdis =>
    split at hp
    · next hres => exact .inr (.inl ⟨by rw [hp], hres.1, by rw [hp], by rw [hp], by rw [hp], hres.2.2⟩)
    · next hres =>
      refine .inr (.inr ⟨hp, ?_⟩)
      cases hn : e.config.points[p].enabled <;> cases ho : old.points[p].enabled
      · exact ⟨rfl, .inl (hd.mpr ho)⟩
      · exact absurd ⟨ho, hn⟩ hdis
      · refine absurd ⟨hn, .inl ho, ?_⟩ hres
        rw [hd.mpr ho]; nofun
      · refine ⟨rfl, .inr ?_⟩
        by_cases hs : a.points[p].state = .shelved
        · exact .inl hs
        · by_contra hne
          refine hres ⟨hn, .inr ?_, hs⟩
          by_contra hno
          push Not at hno hne
          exact hne.2 hno.1 hno.2

/-- Marks and groups recomputed change no more of a point than that it may lose its mark. -/
theorem Alarm.Recomputed.point {new : Configuration} (h : Alarm.Recomputed old new a b) (p : PointId) :
    ∃ m, b.points[p] = { a.points[p] with mark := m } ∧ (m = true → a.points[p].mark = true) := by
  rw [h.points p]
  split
  · exact ⟨false, rfl, nofun⟩
  · exact ⟨a.points[p].mark, rfl, id⟩

theorem Alarm.Recomputed.state {new : Configuration} (h : Alarm.Recomputed old new a b) (p : PointId) :
    b.points[p].state = a.points[p].state := by
  obtain ⟨m, hm, -⟩ := h.point p
  rw [hm]

theorem Alarm.Settled.enabledLaw (h : Alarm.Settled e old a b) (hen : a.EnabledLaw old) : b.EnabledLaw e.config := by
  intro p
  rcases h.cases hen p with ⟨hs, hn, -⟩ | ⟨hs, hn, -⟩ | ⟨hp, hn, -⟩
  · simp [hs, hn, -Fin.getElem_fin]
  · simp [hs, hn, -Fin.getElem_fin]
  · rw [hp, hn]; exact hen p

theorem Alarm.Settled.shelfLaw (h : Alarm.Settled e old a b) (ha : a.ShelfLaw) : b.ShelfLaw := by
  refine ⟨?_, ?_, fun p => ?_⟩
  · rw [h.shelf]; exact (List.length_filter_le ..).trans ha.size
  · rw [h.shelf]; exact ha.once.sublist (List.filter_sublist.map _)
  · have hm : p ∈ b.shelf.map ShelfEntry.point ↔ p ∈ a.shelf.map ShelfEntry.point ∧ ¬Disables old e.config p := by
      rw [h.shelf]
      simp only [List.mem_map, List.mem_filter, decide_eq_true_iff]
      constructor
      · rintro ⟨n, ⟨hn, hd⟩, rfl⟩
        exact ⟨⟨n, hn, rfl⟩, hd⟩
      · rintro ⟨⟨n, hn, rfl⟩, hd⟩
        exact ⟨n, ⟨hn, hd⟩, rfl⟩
    rw [hm, ← ha.shelved p, h.points p]
    split
    · next hd => exact ⟨nofun, fun hs => absurd hd hs.2⟩
    · next hd =>
      split
      · next hr => exact ⟨nofun, fun hs => absurd hs.1 hr.2.2⟩
      · exact ⟨fun hs => ⟨hs, hd⟩, And.left⟩

/-- Group records recomputed obey the law: a group that keeps its members is armed as it was (R50, R58). -/
theorem Alarm.Recomputed.groupLaw {new : Configuration} (h : Alarm.Recomputed old new a b) {first : Alarm}
    (hg : a.groups = first.groups) (hf : first.GroupLaw old)
    (hact : ∀ p : PointId, a.points[p].state.active = true → first.points[p].state.active = true) : b.GroupLaw new := by
  intro g
  have hb : b.groupActive new g = a.groupActive new g := Alarm.groupActive_congr fun q _ => by rw [h.state]
  rw [hb, h.groups g]
  dsimp only
  split
  · next hn => rw [hn]; rfl
  · next hn =>
    have hn := Bool.eq_true_of_not_eq_false hn
    rw [hn]
    split
    · rfl
    · next hr =>
      obtain ⟨q, hq, hqa⟩ := (Alarm.groupActive_iff ..).mp hn
      have hqo : old.points[q].group = some g := by
        by_contra hne
        exact hr ⟨q, fun hiff => hne (hiff.mpr hq)⟩
      have ho : first.groupActive old g = true := (Alarm.groupActive_iff ..).mpr ⟨q, hqo, hact q hqa⟩
      have := hf g
      rw [ho] at this
      rw [hg]
      exact this

/-! ## The steps after them are turns -/

/-- The alarms of a commit apply before the releases. -/
abbrev Alarm.prepared (e : Env) (old : Configuration) (a : Alarm) : Alarm := (a.settled e old).recomputed old e.config

/-- The alarms of a commit apply after the releases. -/
abbrev Alarm.freedAll (e : Env) (old : Configuration) (a : Alarm) : Alarm :=
  (a.prepared e old).release e ((a.prepared e old).freed e.config)

/-- The alarms of a commit apply after the entry passes. -/
abbrev Alarm.entries (e : Env) (old : Configuration) (a : Alarm) : Alarm :=
  (a.freedAll e old).passes e .commit (allPoints.filter fun p =>
    decide (Resets old e.config a p ∧ (a.freedAll e old).points[p].abnormal = true))

theorem Alarm.mem_freed (c : Configuration) (a : Alarm) (p : PointId) :
    p ∈ a.freed c ↔ a.points[p].state = .suppressed ∧ a.suppressorActive c p = false := by
  simp [Alarm.freed, allPoints, -Fin.getElem_fin]

/-- A release of SUPPRESSED points is a run of turns. -/
theorem Alarm.release_turns (e : Env) (qs : List PointId) (a : Alarm) (hn : qs.Nodup)
    (h : ∀ q ∈ qs, a.points[q].state = .suppressed) : Alarm.Turns e a (a.release e qs) := by
  induction qs generalizing a with
  | nil => exact .refl
  | cons q qs ih =>
    obtain ⟨hq, hn⟩ := List.nodup_cons.mp hn
    refine (Alarm.Turn.release a e.origin q (h q List.mem_cons_self)).turns.trans (ih _ hn fun r hr => ?_)
    rw [Alarm.enter_points, if_neg fun hrq : r = q => hq (hrq ▸ hr)]
    exact h r (List.mem_cons_of_mem _ hr)

theorem Alarm.freed_turns (e : Env) (old : Configuration) (a : Alarm) :
    Alarm.Turns e (a.prepared e old) (a.freedAll e old) :=
  Alarm.release_turns e _ _ ((List.nodup_finRange 96).filter _) fun _ hq => ((Alarm.mem_freed ..).mp hq).1

theorem Alarm.prepared_reset (he : e.defer = true) {p : PointId} (h : Resets old e.config a p) :
    (a.prepared e old).points[p].state = .idle := by
  rw [(Alarm.recomputed_recomputed old e.config (a.settled e old)).state, (Alarm.settled_settled he old a).points, if_neg,
    if_pos h]
  rintro ⟨-, hd⟩
  rw [h.1] at hd
  cases hd

theorem Alarm.entries_turns (he : e.defer = true) (old : Configuration) (a : Alarm) :
    Alarm.Turns e (a.freedAll e old) (a.entries e old) := by
  refine Alarm.passes_turns e .commit _ _ fun p hp => ?_
  obtain ⟨hr, hab⟩ := of_decide_eq_true (List.mem_filter.mp hp).2
  refine ⟨?_, hab⟩
  have hidle := Alarm.prepared_reset he hr
  rw [Alarm.release_points_of_notMem, hidle]
  · exact PointState.not_settled nofun nofun
  · rw [Alarm.mem_freed, hidle]
    exact fun hs => by cases hs.1

/-- What a commit apply leaves: the alarms after its entry passes, with reminders brought to their new settings. -/
theorem Alarm.apply_ends (he : e.defer = true) (hs : ∀ p : PointId, e.config.points[p].suppressor ≠ some p) :
    (∀ p : PointId, (a.apply e old).points[p] = { (a.entries e old).points[p] with
      reminder := reminderApplied (a.entries e old).journal.elapsed old.points[p] e.config.points[p]
        (a.entries e old).points[p] }) ∧
    a.apply e old = { a.entries e old with points := (a.apply e old).points, lamps := (a.apply e old).lamps } := by
  obtain ⟨-, -, -, -, hp, hf⟩ := Alarm.apply_steps he old a hs
  exact ⟨hp, hf⟩

end Sys2Proof.Machine
end


section
/-! SUPPORT. Each law of the alarm blocks through a commit apply (R27, R57 to R60, R76). -/

namespace Sys2Proof.Machine

variable {e : Env} {old : Configuration} {a : Alarm}

theorem Alarm.prepared_turns (he : e.defer = true) (old : Configuration) (a : Alarm) :
    Alarm.Turns e (a.prepared e old) (a.entries e old) :=
  (Alarm.freed_turns e old a).trans (Alarm.entries_turns he old a)

/-- An apply ends as its entry passes do, but for reminders. -/
theorem Alarm.apply_point (he : e.defer = true) (hs : ∀ p : PointId, e.config.points[p].suppressor ≠ some p) (p : PointId) :
    ∃ r, (a.apply e old).points[p] = { (a.entries e old).points[p] with reminder := r } ∧
      (r ≠ none → (a.entries e old).points[p].reminder ≠ none ∨
        (a.entries e old).points[p].state = .standing ∧ e.config.points[p].sequence ≠ .notice) := by
  refine ⟨_, (Alarm.apply_ends he hs).1 p, fun hr => ?_⟩
  unfold reminderApplied at hr
  split at hr
  · exact .inl hr
  · split at hr
    · next hc => exact hc.imp id fun hc => ⟨hc.2.1, hc.2.2⟩
    · exact absurd rfl hr

theorem Alarm.apply_state (he : e.defer = true) (hs : ∀ p : PointId, e.config.points[p].suppressor ≠ some p) (p : PointId) :
    (a.apply e old).points[p].state = (a.entries e old).points[p].state := by
  obtain ⟨r, hp, -⟩ := Alarm.apply_point (old := old) (a := a) he hs p
  rw [hp]

theorem Alarm.apply_shelf (he : e.defer = true) (hs : ∀ p : PointId, e.config.points[p].suppressor ≠ some p) :
    (a.apply e old).shelf = (a.entries e old).shelf := by
  rw [(Alarm.apply_ends he hs).2]

/-! ## The laws of the alarm blocks -/

/-- Before the releases the alarms obey the laws of the new configuration. -/
theorem Alarm.prepared_tables (he : e.defer = true) (h : a.Tables old) : (a.prepared e old).Tables e.config := by
  have h2 := Alarm.settled_settled he old a
  have h3 := Alarm.recomputed_recomputed old e.config (a.settled e old)
  have hen := h2.enabledLaw h.enabled
  have hsh := h2.shelfLaw h.shelf
  refine ⟨fun p => ?_, h3.groupLaw h2.groups h.groups fun p hp => ?_, ⟨?_, ?_, fun p => ?_⟩, fun p => ?_, ?_, fun p => ?_⟩
  · rw [h3.state]; exact hen p
  · rcases h2.cases h.enabled p with ⟨hst, -⟩ | ⟨hst, -⟩ | ⟨hst, -⟩ <;> rw [hst] at hp
    · cases hp
    · cases hp
    · exact hp
  · rw [h3.shelf]; exact hsh.size
  · rw [h3.shelf]; exact hsh.once
  · rw [h3.shelf, h3.state]; exact hsh.shelved p
  · have hl : (a.settled e old).lamps[p] = (a.settled e old).points[p].pattern := by
      rw [h2.lamps p, h2.points p]
      by_cases hd : Disables old e.config p
      · rw [if_pos (.inl hd), if_pos hd]; rfl
      · by_cases hr : Resets old e.config a p
        · rw [if_pos (.inr hr), if_neg hd, if_pos hr]; rfl
        · rw [if_neg (not_or.mpr ⟨hd, hr⟩), if_neg hd, if_neg hr]; exact h.lamps p
    rw [h3.lamps p]
    split
    · rfl
    · next hm => rw [hl, h3.points p, if_neg hm]
  · rw [h3.sounder]
    refine foldl_keeps (P := Alarm.ClaimsOnce) (fun b p => Alarm.applyReset_keeps (Alarm.ClaimsOnce.closed ..) p) _
      (foldl_keeps (fun b p => Alarm.applyDisable_keeps (Alarm.ClaimsOnce.closed ..) p) _ ?_)
    exact Alarm.reclaim_keeps (Alarm.ClaimsOnce.closed ..) (fun _ p => Alarm.ClaimsOnce.passClaim e p) old h.claims.once
  · obtain ⟨m, hm, -⟩ := h3.point p
    rw [h3.sounder, h2.claims p, hm]
    exact claimOf_congr _ rfl rfl

/-- A commit apply brings the alarm blocks under the laws of the new configuration. -/
theorem Alarm.apply_tables (he : e.defer = true) (hs : ∀ p : PointId, e.config.points[p].suppressor ≠ some p)
    (h : a.Tables old) : (a.apply e old).Tables e.config := by
  have h5 := (Alarm.prepared_turns he old a).keeps (fun _ _ => Alarm.Turn.tables)
    (Alarm.prepared_tables he h)
  have hst := Alarm.apply_state (old := old) (a := a) he hs
  have hsh := Alarm.apply_shelf (old := old) (a := a) he hs
  have hx : (a.apply e old).sounder = (a.entries e old).sounder := by rw [(Alarm.apply_ends he hs).2]
  have hg : (a.apply e old).groups = (a.entries e old).groups := by rw [(Alarm.apply_ends he hs).2]
  refine ⟨fun p => ?_, h5.groups.changed hg fun q => by rw [hst], ⟨?_, ?_, fun p => ?_⟩, Alarm.apply_lampLaw h.lamps,
    Alarm.apply_claimsOnce h.claims.once, fun p => ?_⟩
  · rw [hst]; exact h5.enabled p
  · rw [hsh]; exact h5.shelf.size
  · rw [hsh]; exact h5.shelf.once
  · rw [hsh, hst]; exact h5.shelf.shelved p
  · obtain ⟨r, hr, -⟩ := Alarm.apply_point (old := old) (a := a) he hs p
    rw [hx, h5.claims.claims p, hr]
    exact claimOf_congr _ rfl rfl

theorem Alarm.apply_shelfOrderLaw (he : e.defer = true) (hs : ∀ p : PointId, e.config.points[p].suppressor ≠ some p)
    (hc : e.config.InTables) (h : a.ShelfOrderLaw) : (a.apply e old).ShelfOrderLaw := by
  have h2 := Alarm.settled_settled he old a
  have h3 := Alarm.recomputed_recomputed old e.config (a.settled e old)
  have hj : (a.prepared e old).journal.elapsed = a.journal.elapsed := by rw [h3.journal, h2.journal]; simp
  have hsh : (a.prepared e old).shelf = a.shelf.filter fun n => decide (¬Disables old e.config n.point) := by
    rw [h3.shelf, h2.shelf]
  have hp : (a.prepared e old).ShelfOrderLaw := by
    refine ⟨?_, fun n hn => ?_⟩
    · rw [hj, hsh]; exact h.inOrder.sublist (List.filter_sublist.map _)
    · rw [hj]; rw [hsh] at hn; exact h.ahead n (List.mem_of_mem_filter hn)
  have h5 := (Alarm.prepared_turns he old a).keeps
    (fun _ _ => Alarm.Turn.shelfOrderLaw hc) hp
  exact h5.congr (Alarm.apply_shelf he hs) (by rw [(Alarm.apply_ends he hs).2])

theorem Alarm.apply_abnormal (he : e.defer = true) (hs : ∀ p : PointId, e.config.points[p].suppressor ≠ some p)
    (p : PointId) : (a.apply e old).points[p].abnormal = a.points[p].abnormal := by
  obtain ⟨r, hr, -⟩ := Alarm.apply_point (old := old) (a := a) he hs p
  have h5 := (Alarm.prepared_turns he old a).keeps
    (P := fun b => b.points[p].abnormal = (a.prepared e old).points[p].abnormal) (fun _ _ h hb => (h.abnormal p).trans hb) rfl
  obtain ⟨m, hm, -⟩ := (Alarm.recomputed_recomputed old e.config (a.settled e old)).point p
  calc (a.apply e old).points[p].abnormal
    _ = (a.entries e old).points[p].abnormal := by rw [hr]
    _ = (a.prepared e old).points[p].abnormal := h5
    _ = (a.settled e old).points[p].abnormal := by rw [hm]
    _ = a.points[p].abnormal := by
      rw [(Alarm.settled_settled he old a).points p]
      split
      · rfl
      · split <;> rfl

/-! ## The laws of the points -/

/-- From `first` to `a` the copies of the conditions whose sources a commit changes have been set anew. -/
def Alarm.Resourced (old new : Configuration) (first a : Alarm) : Prop :=
  ∀ p : PointId, ∃ v, a.points[p] = { first.points[p] with abnormal := v } ∧
    (old.points[p].source = new.points[p].source → v = first.points[p].abnormal)

/-- Before the releases each point is lawful. -/
theorem Alarm.prepared_lawful {first : Alarm} (he : e.defer = true) (hen : a.EnabledLaw old) (hf : first.PointLaw old)
    (hr : Alarm.Resourced old e.config first a) (p : PointId) : (a.prepared e old).points[p].Law := by
  obtain ⟨m, hm, hmark⟩ := (Alarm.recomputed_recomputed old e.config (a.settled e old)).point p
  obtain ⟨v, hv, hsame⟩ := hr p
  have h2 := Alarm.settled_settled he old a
  have hocc : (a.settled e old).points[p].occurrence = first.points[p].occurrence := by
    have ha : a.points[p].occurrence = first.points[p].occurrence := by rw [hv]
    rw [h2.points p, ← ha]
    split
    · rfl
    · split <;> rfl
  have hlaw := hf.each p
  rw [hm]
  rcases h2.cases hen p with ⟨hs, -, hmk, hh, hrm, -⟩ | ⟨hs, -, hmk, hh, hrm, -⟩ | ⟨hk, -, hkept⟩
  iterate 2
    refine ⟨fun hd => ?_, fun hd => ?_, fun hd => absurd hrm hd, ?_, fun hd => ?_, fun hd => ?_⟩
    · exact absurd (hh.symm.trans hd) nofun
    · exact absurd (hmk.symm.trans (hmark hd)) nofun
    · exact hocc.trans_le hlaw.occurrence
    · change (a.settled e old).points[p].state.active = true ∨ (a.settled e old).points[p].state = .suppressed at hd
      rw [hs] at hd
      rcases hd with hd | hd <;> cases hd
    · exact absurd (hs.symm.trans hd) nofun
  · have hst : (a.settled e old).points[p] = { first.points[p] with abnormal := v } := hk.trans hv
    rw [hst] at hmark ⊢
    refine ⟨hlaw.hushed, fun hd => hlaw.mark (hmark hd), hlaw.reminder, hlaw.occurrence, hlaw.begun, fun hd => ?_⟩
    change first.points[p].state = .suppressed at hd
    rw [hv] at hkept
    change first.points[p].state = .disabled ∨ first.points[p].state = .shelved ∨ _ at hkept
    rw [hd] at hkept
    rcases hkept with hkept | hkept | ⟨hsrc, -⟩
    · cases hkept
    · cases hkept
    · exact (hsame hsrc).trans (hlaw.suppressed hd)

theorem Alarm.apply_pointLaw {first : Alarm} (he : e.defer = true)
    (hs : ∀ p : PointId, e.config.points[p].suppressor ≠ some p) (hen : a.EnabledLaw old) (hf : first.PointLaw old)
    (hr : Alarm.Resourced old e.config first a) : (a.apply e old).PointLaw e.config := by
  have h3 : (a.prepared e old).PointLawBut e.config fun q => (a.prepared e old).suppressorActive e.config q = false := by
    refine ⟨Alarm.prepared_lawful he hen hf hr, fun p _ => ?_⟩
    cases (a.prepared e old).suppressorActive e.config p
    · exact .inr rfl
    · exact .inl rfl
  have h4 : (a.freedAll e old).PointLaw e.config := by
    refine (h3.release fun q hq => ?_).full fun q hq hst => ?_
    · exact (h3.each q).begun (.inr ((Alarm.mem_freed ..).mp hq).1)
    · obtain ⟨hn, hst⟩ := Alarm.release_suppressed hst
      exact hn ((Alarm.mem_freed ..).mpr ⟨hst, hq⟩)
  have h5 := (Alarm.entries_turns he old a).keeps (fun _ _ => Alarm.Turn.pointLaw) h4
  refine ⟨fun p => ?_, fun p hp => ?_⟩
  · obtain ⟨r, hp, hrem⟩ := Alarm.apply_point (old := old) (a := a) he hs p
    have hlaw := h5.each p
    rw [hp]
    exact { hlaw with reminder := fun hn => (hrem hn).elim hlaw.reminder And.left }
  · rw [Alarm.apply_state he hs] at hp
    obtain ⟨q, hq, hqa⟩ := (Alarm.suppressorActive_iff ..).mp (h5.suppressed p hp)
    exact (Alarm.suppressorActive_iff ..).mpr ⟨q, hq, by rw [Alarm.apply_state he hs]; exact hqa⟩

/-- Before the releases each point follows its new sequence. -/
theorem Alarm.prepared_sequenceLaw {first : Alarm} (he : e.defer = true) (hen : a.EnabledLaw old) (hf : first.PointLaw old)
    (hq : first.SequenceLaw old) (hr : Alarm.Resourced old e.config first a) :
    (a.prepared e old).SequenceLaw e.config := by
  rw [Alarm.sequenceLaw_iff] at hq ⊢
  intro p
  obtain ⟨m, hm, -⟩ := (Alarm.recomputed_recomputed old e.config (a.settled e old)).point p
  obtain ⟨v, hv, -⟩ := hr p
  have hfp := hq p
  suffices h : (a.settled e old).points[p].Follows e.config.points[p].sequence by
    rw [hm]
    exact ⟨h.alerting, h.awaitReset, h.returned, h.notice⟩
  rcases (Alarm.settled_settled he old a).cases hen p with ⟨hs, -, -, -, hrm, -⟩ | ⟨hs, -, -, -, hrm, -⟩ | ⟨hk, -, hkept⟩
  · exact ⟨by rw [hs]; nofun, by rw [hs]; nofun, by rw [hs]; nofun, fun _ => hrm⟩
  · exact ⟨by rw [hs]; nofun, by rw [hs]; nofun, by rw [hs]; nofun, fun _ => hrm⟩
  · rw [hk, hv]
    rw [hv] at hkept
    change first.points[p].state = .disabled ∨ first.points[p].state = .shelved ∨ _ at hkept
    have hrest (hst : first.points[p].state ≠ .standing) : first.points[p].reminder = none :=
      Classical.not_not.mp fun hn => hst ((hf.each p).reminder hn)
    rcases hkept with hst | hst | ⟨-, hsq⟩
    · refine ⟨fun hd => ?_, fun hd => ?_, fun hd => ?_, fun _ => hrest (by rw [hst]; nofun)⟩ <;>
        exact absurd (hst.symm.trans hd) nofun
    · refine ⟨fun hd => ?_, fun hd => ?_, fun hd => ?_, fun _ => hrest (by rw [hst]; nofun)⟩ <;>
        exact absurd (hst.symm.trans hd) nofun
    · rw [← hsq]
      exact ⟨hfp.alerting, hfp.awaitReset, hfp.returned, hfp.notice⟩

theorem Alarm.apply_sequenceLaw {first : Alarm} (he : e.defer = true)
    (hs : ∀ p : PointId, e.config.points[p].suppressor ≠ some p) (hen : a.EnabledLaw old) (hf : first.PointLaw old)
    (hq : first.SequenceLaw old) (hr : Alarm.Resourced old e.config first a) : (a.apply e old).SequenceLaw e.config := by
  have h5 := (Alarm.prepared_turns he old a).keeps (fun _ _ => Alarm.Turn.sequenceLaw)
    (Alarm.prepared_sequenceLaw he hen hf hq hr)
  rw [Alarm.sequenceLaw_iff] at h5 ⊢
  intro p
  obtain ⟨r, hp, hrem⟩ := Alarm.apply_point (old := old) (a := a) he hs p
  obtain ⟨h1, h2, h3, h4⟩ := h5 p
  rw [hp]
  refine ⟨h1, h2, h3, fun hn => ?_⟩
  by_contra hne
  rcases hrem hne with hd | ⟨-, hd⟩
  · exact hd (h4 hn)
  · exact hd hn

end Sys2Proof.Machine
end


section
/-! SUPPORT. What every change keeps of the configuration and of the alarm blocks. -/

namespace Sys2Proof.Machine

variable {s t : Part}

/-! ## The changes after which the relays are settled -/

/-- What holds after a change of the alarms outside commit apply and warm restart: the configuration and the test set as
they were, and what turns, deliveries and changes of the Journal's records keep. -/
structure Part.Delivered (s t : Part) : Prop where
  active : t.active = s.active
  mode : t.manager.mode = s.manager.mode
  staging : ∀ c, t.manager.staging = some c → s.manager.staging = some c ∨ c = s.active
  testSet : t.panel.testSet = s.panel.testSet
  keeps : ∀ Q : Alarm → Prop, (∀ a b, Alarm.Turn (s.env .part) a b → Q a → Q b) →
    (∀ a o p v, Q a → Q (a.deliver (s.env o) p v)) →
    (∀ (a : Alarm) (j : Journal), j.elapsed = a.journal.elapsed → Q a → Q { a with journal := j }) → Q s.alarm → Q t.alarm

/-- Condition changes delivered to a part that has the alarms of `s` but for the Journal. -/
theorem Part.Delivered.brought (ha : t.active = s.active) (hm : t.manager.mode = s.manager.mode)
    (hs : ∀ c, t.manager.staging = some c → s.manager.staging = some c ∨ c = s.active)
    (ht : t.panel.testSet = s.panel.testSet) (hal : t.alarm = { s.alarm with journal := t.alarm.journal })
    (hj : t.alarm.journal.elapsed = s.alarm.journal.elapsed) (o : Origin) (ps : List PointId)
    (v : PointId → Bool) : Part.Delivered s (t.brought o ps v) where
  active := ha
  mode := hm
  staging := hs
  testSet := ht
  keeps Q _ hQd hQj hQ := by
    have he : t.env o = s.env o := by unfold Part.env; rw [ha, ht]
    refine foldl_keeps (P := Q) (fun a p ha => ?_) _ ?_
    · rw [he]; exact hQd a o p _ ha
    · rw [hal]; exact hQj _ _ hj hQ

/-- The part of a scan before its changes are delivered (R31, R32). -/
def Part.sampled (levels : BitVec 24) (s : Part) : Part :=
  { s with
    lines := tabulate fun n => s.lines[n].scan (wireOf levels n)
    scanTimer := some (clockAfter s.alarm.journal.elapsed 1)
    free := s.free + 1 }

/-- The lines that change in a scan, in the order in which they are taken. -/
def Part.scanOrder (levels : BitVec 24) (s : Part) : List LineId :=
  orderByRank (Config.lineRank s.free) (changedLines s.lines (s.sampled levels).lines)

/-- A scan works out the conditions of the points on the changed lines, line by line (R33). -/
theorem Part.scan_eq (levels : BitVec 24) (s : Part) : s.scan levels =
    (s.sampled levels).brought .line ((s.sampled levels).pointsOnLines (s.scanOrder levels)) (s.sampled levels).conditionOf :=
  Part.lineChanges_eq _ _ ((orderByRank_perm _ _).nodup_iff.mpr ((List.nodup_finRange 24).filter _))

theorem Part.resolvedAs_delivered {m : Part} (o : Origin) {ps : List PointId} {v : PointId → Bool}
    (hm : m = s.resolvedAs m) (ha : m.alarm = ps.foldl (fun a p => a.deliver (s.env o) p (v p)) s.alarm) :
    Part.Delivered s m where
  active := by rw [hm]; rfl
  mode := by rw [hm]; rfl
  staging c hc := .inl (by rw [hm] at hc; exact hc)
  testSet := by rw [hm]; rfl
  keeps Q _ hd _ hQ := by
    rw [ha]
    exact foldl_keeps (P := Q) (fun a p ha => hd a o p _ ha) _ hQ

/-- A change after which the relays are settled is a change of conditions and points, a warm restart's rebuild, or the apply
of a checked commit. -/
theorem Part.Acted.cases (h : Part.Acted s t) : Part.Delivered s t ∨ t = s.act .part Alarm.warmRestart ∨
    ∃ c l, c = s.staged ∧ c.check l = .passed ∧ t = s.applyCommit c l := by
  cases h with
  | turned a h => exact .inl ⟨rfl, rfl, fun _ => .inl, rfl, fun Q ht _ _ hQ => h.keeps ht hQ⟩
  | asserted l v ps h =>
    obtain ⟨hm, -, -, ha⟩ := Part.foldl_asserted l v ps s
    exact .inl (Part.resolvedAs_delivered (.link l) hm ha)
  | scanned levels =>
    rw [Part.scan_eq]
    exact .inl (Part.Delivered.brought (s := s) (t := s.sampled levels) rfl rfl (fun _ => .inl) rfl rfl rfl ..)
  | relinked u l h =>
    rw [Part.resolveAll_eq _ _ _ (Part.pointsOn_nodup ..)]
    exact .inl (Part.Delivered.brought h.active h.mode h.staging h.testSet h.alarm h.elapsed ..)
  | rebuilt => exact .inr (.inl rfl)
  | applied c l hc hp => exact .inr (.inr ⟨c, l, hc, hp, rfl⟩)

/-! ## A commit apply in its parts -/

/-- The part before the alarms of a commit apply change: copies taken, conditions brought into line. -/
def Part.sourced (c : Configuration) (l : LinkId) (s : Part) : Part :=
  allPoints.foldl (Part.applySource s.active) (s.copied c l)

theorem Part.sourced_resourced (c : Configuration) (l : LinkId) (s : Part) :
    Part.Resourced s.active allPoints (s.copied c l) (s.sourced c l) :=
  Part.foldl_applySource s.active allPoints (List.nodup_finRange 96) (s.copied c l)

/-- What the alarms of a commit apply read. -/
abbrev Part.commitEnv (c : Configuration) (s : Part) : Env := ⟨c, s.panel.testSet.active, true, .part⟩

/-- The alarms of a commit apply, with its one evaluation. -/
def Alarm.evaluated (e : Env) (old : Configuration) (now : Nat) (a : Alarm) : Alarm :=
  { a.apply e old with
    sounder := (a.apply e old).sounder.evaluate e.test now (changedLevels old.tones e.config.tones) }

/-- The part before a commit apply looks at the TEST lock, where it stood as `x` with its conditions brought into line. -/
def Part.evaluated (c : Configuration) (s x : Part) : Part :=
  { x with alarm := x.alarm.evaluated (s.commitEnv c) s.active s.alarm.journal.elapsed }

theorem Part.sourced_frame (c : Configuration) (l : LinkId) (s : Part) :
    (s.sourced c l).active = c ∧ (s.sourced c l).manager = { s.manager with mode := .running } ∧
      (s.sourced c l).panel = s.panel := by
  have h := (Part.sourced_resourced c l s).frame
  exact ⟨(congrArg Part.active h).trans rfl, (congrArg Part.manager h).trans rfl, (congrArg Part.panel h).trans rfl⟩

theorem Part.applyCommit_evaluated (c : Configuration) (l : LinkId) (s : Part) :
    s.applyCommit c l = (s.evaluated c (s.sourced c l)).applyLock.settleRelays := by
  have h := (Part.sourced_frame c l s).2.2
  rw [Part.applyCommit_eq]
  change Part.applied s.active c s.alarm.journal.elapsed (s.sourced c l) = _
  generalize s.sourced c l = x at h
  unfold Part.applied Part.evaluated Alarm.evaluated
  simp only [h]

theorem Part.changeTestSet_frame (o : Origin) (ts : TestSet) (s : Part) :
    (s.changeTestSet o ts).active = s.active ∧ (s.changeTestSet o ts).manager = s.manager := by
  unfold Part.changeTestSet
  simp only
  split <;> exact ⟨rfl, rfl⟩

theorem Part.applyLock_frame (s : Part) : s.applyLock.active = s.active ∧ s.applyLock.manager = s.manager := by
  unfold Part.applyLock
  split
  · exact Part.changeTestSet_frame ..
  · exact ⟨rfl, rfl⟩

theorem Part.applyCommit_frame (c : Configuration) (l : LinkId) (s : Part) :
    (s.applyCommit c l).active = c ∧ (s.applyCommit c l).manager = { s.manager with mode := .running } := by
  obtain ⟨h1, h2, -⟩ := Part.sourced_frame c l s
  rw [Part.applyCommit_evaluated]
  generalize s.sourced c l = x at h1 h2
  obtain ⟨ha, hm⟩ := Part.applyLock_frame (s.evaluated c x)
  exact ⟨ha.trans h1, hm.trans h2⟩

/-! ## The configurations (R1, R30, R78, R145, R146, R149, R155) -/

/-- A check that passes has passed C1 to C4. -/
theorem Configuration.check_passed {c : Configuration} {l : LinkId} (h : c.check l = .passed) :
    c.c1 = none ∧ c.c2 = none ∧ c.c3 = none ∧ c.c4 = none := by
  unfold Configuration.check at h
  cases h1 : c.c1 <;> rw [h1] at h
  · cases h2 : c.c2 <;> rw [h2] at h
    · cases h3 : c.c3 <;> rw [h3] at h
      · cases h4 : c.c4 <;> rw [h4] at h
        · exact ⟨rfl, rfl, rfl, rfl⟩
        · cases h
      · cases h
    · cases h
  · cases h

theorem Part.ConfigLaw.congr (h : s.ConfigLaw) (ha : t.active = s.active) (hm : t.manager.mode = s.manager.mode)
    (hs : ∀ c, t.manager.staging = some c → s.manager.staging = some c ∨ c = s.active) : t.ConfigLaw where
  active := by rw [ha]; exact h.active
  staging c hc := (hs c hc).elim (h.staging c) fun hc => hc ▸ h.active
  checked := by rw [ha]; exact h.checked
  unconfigured hu := by rw [ha]; exact h.unconfigured (hm ▸ hu)

theorem Part.staged_inTables (h : s.ConfigLaw) : s.staged.InTables := by
  unfold Part.staged
  cases hc : s.manager.staging with
  | none => exact h.active
  | some c => exact h.staging c hc

theorem Part.Acted.configLaw (h : Part.Acted s t) (hs : s.ConfigLaw) : t.ConfigLaw := by
  rcases h.cases with h | rfl | ⟨c, l, hc, hp, rfl⟩
  · exact hs.congr h.active h.mode h.staging
  · exact hs.congr rfl rfl fun _ => .inl
  · obtain ⟨ha, hm⟩ := Part.applyCommit_frame c l s
    refine ⟨?_, fun d hd => ?_, ?_, fun hu => ?_⟩
    · rw [ha, hc]; exact Part.staged_inTables hs
    · rw [hm] at hd; exact hs.staging d hd
    · rw [ha]; exact Configuration.check_passed hp
    · rw [hm] at hu; cases hu

theorem Part.endCount_beside (s : Part) : Part.Beside s s.endCount :=
  (Part.gapExpired_beside .a s).trans (Part.gapExpired_beside .b _)

theorem Part.Change.configLaw (h : Part.Change s t) (hs : s.ConfigLaw) : t.ConfigLaw := by
  cases h with
  | beside u h => exact hs.congr h.active h.mode h.staging
  | staged c h =>
    refine ⟨hs.active, fun d hd => ?_, hs.checked, hs.unconfigured⟩
    cases hd
    exact h hs.active hs.staging
  | settled u h => exact (h.configLaw hs).congr rfl rfl fun _ => .inl
  | still a => exact hs.congr rfl rfl fun _ => .inl
  | played c v => exact hs.congr rfl rfl fun _ => .inl
  | hushed c => exact hs.congr rfl rfl fun _ => .inl
  | tested o ts =>
    obtain ⟨ha, hm⟩ := Part.changeTestSet_frame o ts s
    exact hs.congr ha (by rw [hm]) fun _ hc => .inl (by rwa [hm] at hc)
  | ticked =>
    have h := Part.endCount_beside s
    exact hs.congr h.active h.mode h.staging
  | reset p => exact Part.reset_configLaw.congr rfl rfl fun _ => .inl

/-- Settles O58: change by change; a commit's new configuration has passed its check. -/
theorem stepKeepsTheConfigurationLaw : Obligations.StepKeepsTheConfigurationLaw := by
  unfold Obligations.StepKeepsTheConfigurationLaw
  intro s t h
  exact step_keeps (fun _ _ => Part.Change.configLaw) h

end Sys2Proof.Machine
end


section
/-! SUPPORT. What every change keeps of the laws of the alarm blocks. -/

namespace Sys2Proof.Machine

variable {s t : Part} {a : Alarm} {c : Configuration} {l : LinkId}

/-! ## The test set (R107) -/

/-- A change of the test set that makes or ends a test passes it to the Sounder Controller; any other leaves the alarms
alone. -/
theorem Part.changeTestSet_cases (o : Origin) (ts : TestSet) (s : Part) :
    (s.panel.testSet.active = ts.active ∧ s.changeTestSet o ts = s.setTestSet ts) ∨
    (ts.active = true ∧ ∃ b, s.changeTestSet o ts = ((s.setTestSet ts).append b).soundTest.settleRelays) ∨
    (ts.active = false ∧ ∃ b, s.changeTestSet o ts = ((s.setTestSet ts).append b).soundLevels.settleRelays) := by
  unfold Part.changeTestSet
  simp only
  split
  · next h => exact .inr (.inl ⟨h, _, rfl⟩)
  · next h => exact .inr (.inr ⟨h, _, rfl⟩)
  · next h1 h2 => exact .inl ⟨h1.trans h2.symm, rfl⟩
  · next h1 h2 => exact .inl ⟨h1.trans h2.symm, rfl⟩

theorem Part.applyLock_cases (s : Part) : s.applyLock = s ∨ ∃ ts, s.applyLock = s.changeTestSet .part ts := by
  unfold Part.applyLock
  split
  · exact .inr ⟨_, rfl⟩
  · exact .inl rfl

/-! ## The laws of the alarm blocks -/

theorem Alarm.Tables.journal (h : a.Tables c) (j : Journal) : Alarm.Tables c { a with journal := j } :=
  ⟨h.enabled, h.groups, ⟨h.shelf.size, h.shelf.once, h.shelf.shelved⟩, h.lamps, ⟨h.claims.once, h.claims.claims⟩⟩

theorem Part.changeTestSet_alarmLaw (o : Origin) (ts : TestSet) (hs : s.AlarmLaw) : (s.changeTestSet o ts).AlarmLaw := by
  rw [Part.alarmLaw_iff] at hs ⊢
  obtain ⟨ht, hc⟩ := hs
  rcases Part.changeTestSet_cases o ts s with ⟨hts, h⟩ | ⟨hts, b, h⟩ | ⟨hts, b, h⟩ <;> rw [h]
  · exact ⟨ht, hts ▸ hc⟩
  · refine ⟨(ht.journal (s.alarm.journal.append b)).sounder rfl rfl rfl, ?_⟩
    change Sounder.ChannelLaw ts.active _
    rw [hts]
    exact Sounder.startTest_channelLaw _ _
  · refine ⟨(ht.journal (s.alarm.journal.append b)).sounder rfl rfl rfl, ?_⟩
    change Sounder.ChannelLaw ts.active _
    rw [hts]
    exact Sounder.assign_channelLaw _ _ hc.timer0 hc.timer1

/-! ### Commit apply -/

/-- Between a part and its stage of a commit apply with the conditions brought into line, the copies of the conditions whose
sources change have been set anew. -/
theorem Part.sourced_points (c : Configuration) (l : LinkId) (s : Part) :
    Alarm.Resourced s.active c s.alarm (s.sourced c l).alarm := by
  intro p
  have h := s.sourced_resourced c l
  by_cases hsrc : c.points[p].source = s.active.points[p].source
  · obtain ⟨-, hp, -⟩ := h.kept p (.inr hsrc)
    exact ⟨_, hp, fun _ => rfl⟩
  · obtain ⟨-, hp, -⟩ := h.changed p (List.mem_finRange p) hsrc
    exact ⟨_, hp, fun h => absurd h.symm hsrc⟩

/-- What a commit apply has left alone of the alarms when the conditions are brought into line. -/
theorem Part.sourced_alarm (c : Configuration) (l : LinkId) (s : Part) :
    (s.sourced c l).alarm.groups = s.alarm.groups ∧ (s.sourced c l).alarm.shelf = s.alarm.shelf ∧
      (s.sourced c l).alarm.sounder = { s.alarm.sounder with tones := c.tones, dual := c.global.dual } ∧
      (s.sourced c l).alarm.journal.elapsed = s.alarm.journal.elapsed := by
  have h := congrArg Part.alarm (s.sourced_resourced c l).frame
  refine ⟨(congrArg Alarm.groups h).trans rfl, (congrArg Alarm.shelf h).trans rfl, (congrArg Alarm.sounder h).trans rfl, ?_⟩
  exact (congrArg (fun a : Alarm => a.journal.elapsed) h).trans (Journal.append_elapsed ..)

theorem Part.sourced_lamps (c : Configuration) (l : LinkId) (h : s.alarm.LampLaw) : (s.sourced c l).alarm.LampLaw := by
  intro p
  have hr := s.sourced_resourced c l
  by_cases hsrc : c.points[p].source = s.active.points[p].source
  · obtain ⟨-, hp, hl⟩ := hr.kept p (.inr hsrc)
    rw [hp, hl]; exact h p
  · obtain ⟨-, hp, hl⟩ := hr.changed p (List.mem_finRange p) hsrc
    exact hl.trans ((Point.pattern_abnormal _ _).symm.trans (congrArg Point.pattern hp.symm))

theorem Part.sourced_tables (c : Configuration) (l : LinkId) (h : s.alarm.Tables s.active) :
    (s.sourced c l).alarm.Tables s.active := by
  obtain ⟨hg, hsh, hx, -⟩ := s.sourced_alarm c l
  have hst (p : PointId) : (s.sourced c l).alarm.points[p].state = s.alarm.points[p].state := by
    obtain ⟨v, hv, -⟩ := s.sourced_points c l p
    rw [hv]
  refine ⟨fun p => ?_, h.groups.changed hg fun q => by rw [hst], ⟨?_, ?_, fun p => ?_⟩, Part.sourced_lamps c l h.lamps,
    ?_, fun p => ?_⟩
  · rw [hst]; exact h.enabled p
  · rw [hsh]; exact h.shelf.size
  · rw [hsh]; exact h.shelf.once
  · rw [hsh, hst]; exact h.shelf.shelved p
  · rw [hx]; exact h.claims.once
  · obtain ⟨v, hv, -⟩ := s.sourced_points c l p
    rw [hx, hv]; exact h.claims.claims p

/-- A configuration that passes its check holds no point that is its own suppressor. -/
theorem Configuration.check_self (h : c.check l = .passed) (p : PointId) : c.points[p].suppressor ≠ some p :=
  Configuration.c2_self (Configuration.check_passed h).2.1 p

theorem Sounder.evaluate_claims (test : Bool) (now : Nat) (r : LevelSet) (x : Sounder) :
    (x.evaluate test now r).claims1 = x.claims1 ∧ (x.evaluate test now r).claims2 = x.claims2 ∧
      (x.evaluate test now r).claims3 = x.claims3 := by
  unfold Sounder.evaluate; split <;> exact ⟨rfl, rfl, rfl⟩

theorem Alarm.evaluated_tables {e : Env} {old : Configuration} (he : e.defer = true)
    (hs : ∀ p : PointId, e.config.points[p].suppressor ≠ some p) (now : Nat) (h : a.Tables old) :
    (a.evaluated e old now).Tables e.config := by
  obtain ⟨h1, h2, h3⟩ := Sounder.evaluate_claims e.test now (changedLevels old.tones e.config.tones) (a.apply e old).sounder
  exact (Alarm.apply_tables he hs h).sounder h1 h2 h3

theorem Part.evaluated_alarmLaw (hp : c.check l = .passed) (h : s.AlarmLaw) : (s.evaluated c (s.sourced c l)).AlarmLaw := by
  rw [Part.alarmLaw_iff] at h ⊢
  obtain ⟨ht, hc⟩ := h
  obtain ⟨hact, -, hpan⟩ := s.sourced_frame c l
  obtain ⟨-, -, hx, -⟩ := s.sourced_alarm c l
  have htab := Part.sourced_tables c l ht
  have hw : (s.sourced c l).alarm.sounder.Waiting s.panel.testSet.active := by
    rw [hx]; exact hc.waiting.congr rfl rfl
  generalize s.sourced c l = x at *
  refine ⟨?_, ?_⟩
  · change Alarm.Tables x.active _
    rw [hact]
    exact Alarm.evaluated_tables (e := s.commitEnv c) rfl (Configuration.check_self hp) _ htab
  · change Sounder.ChannelLaw x.panel.testSet.active _
    rw [hpan]
    exact (Alarm.apply_waiting c s.panel.testSet.active .part hw).evaluate _ _

/-- What a change of the test set and settling the relays keep, a commit apply keeps after its one evaluation. -/
theorem Part.applyCommit_keeps {P : Part → Prop} (ht : ∀ (u : Part) (o : Origin) (ts : TestSet), P u → P (u.changeTestSet o ts))
    (hr : ∀ u : Part, P u → P u.settleRelays) (h : P (s.evaluated c (s.sourced c l))) : P (s.applyCommit c l) := by
  rw [Part.applyCommit_evaluated]
  refine hr _ ?_
  generalize s.evaluated c (s.sourced c l) = u at *
  rcases Part.applyLock_cases u with hu | ⟨ts, hu⟩ <;> rw [hu]
  · exact h
  · exact ht u .part ts h

/-! ### Every change -/

theorem Part.Acted.alarmLaw (h : Part.Acted s t) (hs : s.AlarmLaw) : t.AlarmLaw := by
  rcases h.cases with h | rfl | ⟨c, l, -, hp, rfl⟩
  · rw [Part.alarmLaw_iff] at hs ⊢
    rw [h.active, h.testSet]
    exact h.keeps (fun a => a.Tables s.active ∧ a.sounder.ChannelLaw s.panel.testSet.active)
      (fun a b hab ha => ⟨hab.tables ha.1, hab.channelLaw rfl ha.2⟩)
      (fun a o p v ha => ⟨Alarm.deliver_tables (e := s.env o) ha.1 p v, Alarm.deliver_channelLaw (e := s.env o) rfl ha.2 p v⟩)
      (fun a j _ ha => ⟨ha.1.journal j, ha.2⟩) hs
  · rw [Part.alarmLaw_iff] at hs ⊢
    exact ⟨Alarm.warmRestart_tables (e := s.env .part) hs.1, Alarm.warmRestart_channelLaw (s.env .part) s.alarm⟩
  · exact Part.applyCommit_keeps (fun _ o ts => Part.changeTestSet_alarmLaw o ts)
      (fun _ h => ⟨h.enabled, h.groups, h.shelf, h.lamps, h.claims, h.channels⟩) (Part.evaluated_alarmLaw hp hs)

theorem Part.BesideBut.alarmLaw {x : Option LinkId} (h : Part.BesideBut x s t) (hs : s.AlarmLaw) : t.AlarmLaw := by
  rw [Part.alarmLaw_iff] at hs ⊢
  rw [h.active, h.testSet, h.alarm]
  exact ⟨hs.1.journal _, hs.2⟩

/-- A channel that goes on in its mode keeps what the channel law says of it. -/
theorem Sounder.setChannel_channelLaw {test : Bool} {x : Sounder} (h : x.ChannelLaw test) (i : ChanId) (v : Channel)
    (hm : v.mode = (x.channel i).mode) (ht : v.chirpTimer = (x.channel i).chirpTimer) :
    (x.setChannel i v).ChannelLaw test := by
  have hlaw {k : Channel} (hk : k.TimerLaw) (hm : v.mode = k.mode) (ht : v.chirpTimer = k.chirpTimer) : v.TimerLaw := by
    unfold Channel.TimerLaw
    rw [hm, ht]; exact hk
  have hass {k : Channel} {target : Option Level} (hk : k.Assigned target) (hm : v.mode = k.mode) : v.Assigned target :=
    ⟨fun l => by rw [hm]; exact hk.level l, by rw [hm]; exact hk.noTest⟩
  cases i with
  | ch0 =>
    exact ⟨hlaw h.timer0 hm ht, h.timer1, fun hx => ⟨hm.trans (h.testing hx).1, (h.testing hx).2⟩,
      fun hx => ⟨hass (h.assigned hx).1 hm, (h.assigned hx).2⟩⟩
  | ch1 =>
    exact ⟨h.timer0, hlaw h.timer1 hm ht, fun hx => ⟨(h.testing hx).1, hm.trans (h.testing hx).2⟩,
      fun hx => ⟨(h.assigned hx).1, hass (h.assigned hx).2 hm⟩⟩

/-- A chirp that ends leaves its channel IDLE, which has no target either (R90). -/
theorem Sounder.goIdle_channelLaw {test : Bool} {x : Sounder} (h : x.ChannelLaw test) (i : ChanId)
    (hi : (x.channel i).mode = .chirp) : (x.setChannel i (x.channel i).goIdle).ChannelLaw test := by
  have hidle {k : Channel} {target : Option Level} (hk : k.Assigned target) (hm : k.mode = .chirp) :
      k.goIdle.Assigned target := by
    rw [hk.none (.inl hm)]
    exact ⟨fun l => ⟨nofun, nofun⟩, nofun⟩
  cases i with
  | ch0 =>
    exact ⟨Channel.goIdle_timer _, h.timer1, fun hx => absurd (hi.symm.trans (h.testing hx).1) nofun,
      fun hx => ⟨hidle (h.assigned hx).1 hi, (h.assigned hx).2⟩⟩
  | ch1 =>
    exact ⟨h.timer0, Channel.goIdle_timer _, fun hx => absurd (hi.symm.trans (h.testing hx).2) nofun,
      fun hx => ⟨(h.assigned hx).1, hidle (h.assigned hx).2 hi⟩⟩

theorem Sounder.ChannelLaw.timer {test : Bool} {x : Sounder} (h : x.ChannelLaw test) (i : ChanId) :
    (x.channel i).TimerLaw := by
  cases i
  · exact h.timer0
  · exact h.timer1

theorem Part.setChannel_tables (h : s.alarm.Tables c) (i : ChanId) (v : Channel) : (s.setChannel i v).alarm.Tables c :=
  h.sounder (Sounder.setChannel_claims1 ..) (Sounder.setChannel_claims2 ..) (Sounder.setChannel_claims3 ..)

theorem Part.Change.alarmLaw (h : Part.Change s t) (hs : s.AlarmLaw) : t.AlarmLaw := by
  cases h with
  | beside u h => exact h.alarmLaw hs
  | staged c => exact ⟨hs.enabled, hs.groups, hs.shelf, hs.lamps, hs.claims, hs.channels⟩
  | settled u h =>
    have h := h.alarmLaw hs
    exact ⟨h.enabled, h.groups, h.shelf, h.lamps, h.claims, h.channels⟩
  | still a h => exact (Part.Acted.turned s a h).alarmLaw hs
  | played i v hm ht =>
    rw [Part.alarmLaw_iff] at hs ⊢
    exact ⟨Part.setChannel_tables hs.1 i v, Sounder.setChannel_channelLaw hs.2 i v hm ht⟩
  | hushed i h =>
    rw [Part.alarmLaw_iff] at hs ⊢
    exact ⟨Part.setChannel_tables hs.1 i _, Sounder.goIdle_channelLaw hs.2 i (hs.2.timer i h)⟩
  | tested o ts => exact Part.changeTestSet_alarmLaw o ts hs
  | ticked =>
    have h := (Part.endCount_beside s).alarmLaw hs
    rw [Part.alarmLaw_iff] at h ⊢
    exact ⟨h.1.journal _, h.2⟩
  | reset p =>
    have h := Part.reset_alarmLaw
    exact ⟨h.enabled, h.groups, h.shelf, h.lamps, h.claims, h.channels⟩

end Sys2Proof.Machine
end


section
/-! SUPPORT. What every change keeps of the shelf's order, the relays, the point table and the sequences. -/

namespace Sys2Proof.Machine

variable {s t : Part} {a b : Alarm} {c : Configuration} {l : LinkId}

/-! ## The order of the shelf table (R62, R63) -/

/-- How far ahead of the elapsed count a deadline lies on the circle of its values. -/
abbrev aheadOf (now deadline : Nat) : Nat :=
  (deadline + Config.clockModulus - now % Config.clockModulus) % Config.clockModulus

theorem timeLeft_eq {now deadline : Nat} (h : aheadOf now deadline ≤ 86400000) : timeLeft now deadline = aheadOf now deadline :=
  if_pos (h.trans_lt (by unfold Config.clockModulus; decide))

/-- A millisecond brings a deadline that is not reached one nearer. -/
theorem aheadOf_tick {now deadline : Nat} (h : aheadOf now deadline ≠ 0) :
    aheadOf (clockAfter now 1) deadline = aheadOf now deadline - 1 := by
  unfold aheadOf clockAfter at *
  unfold Config.clockModulus at *
  omega

/-- With the first entry not due, a millisecond keeps the order of the table. -/
theorem Alarm.ShelfOrderLaw.tick (h : a.ShelfOrderLaw) (hd : a.shelfDue.isSome = false) :
    Alarm.ShelfOrderLaw { a with journal := a.journal.tick } := by
  have hnow : a.journal.tick.elapsed = clockAfter a.journal.elapsed 1 := rfl
  have hpos : ∀ n ∈ a.shelf, aheadOf a.journal.elapsed n.expiry ≠ 0 := by
    intro n hn hz
    have hin := h.inOrder
    have hall := h.ahead
    obtain ⟨m, rest, hsh⟩ := List.exists_cons_of_ne_nil (List.ne_nil_of_mem hn)
    rw [hsh] at hin hn hall
    have hm : timeLeft a.journal.elapsed m.expiry = 0 := by
      have hn0 : timeLeft a.journal.elapsed n.expiry = 0 := by rw [timeLeft_eq (hall n hn)]; exact hz
      rcases List.mem_cons.mp hn with rfl | hn
      · exact hn0
      · have hmn : timeLeft a.journal.elapsed m.expiry ≤ timeLeft a.journal.elapsed n.expiry :=
          (List.pairwise_cons.mp hin).1 _ (List.mem_map_of_mem hn)
        rw [hn0] at hmn
        exact Nat.le_zero.mp hmn
    rw [(Alarm.shelfDue_isSome a).mpr ⟨m, rest, hsh, hm⟩] at hd
    cases hd
  have hahead : ∀ n ∈ a.shelf, aheadOf a.journal.tick.elapsed n.expiry = aheadOf a.journal.elapsed n.expiry - 1 :=
    fun n hn => aheadOf_tick (hpos n hn)
  have hle : ∀ n ∈ a.shelf, aheadOf a.journal.tick.elapsed n.expiry ≤ 86400000 := fun n hn => by
    have := h.ahead n hn
    rw [hahead n hn]
    exact (Nat.sub_le ..).trans this
  refine ⟨?_, hle⟩
  have hin := List.pairwise_map.mp h.inOrder
  refine List.pairwise_map.mpr (hin.imp_of_mem fun {m n} hm hn hmn => ?_)
  rw [timeLeft_eq (hle m hm), timeLeft_eq (hle n hn), hahead m hm, hahead n hn]
  rw [timeLeft_eq (h.ahead m hm), timeLeft_eq (h.ahead n hn)] at hmn
  exact Nat.sub_le_sub_right hmn 1

theorem Part.changeTestSet_alarm (o : Origin) (ts : TestSet) (s : Part) :
    (s.changeTestSet o ts).alarm.points = s.alarm.points ∧ (s.changeTestSet o ts).alarm.shelf = s.alarm.shelf ∧
      (s.changeTestSet o ts).alarm.journal.elapsed = s.alarm.journal.elapsed := by
  rcases Part.changeTestSet_cases o ts s with ⟨-, h⟩ | ⟨-, b, h⟩ | ⟨-, b, h⟩ <;> rw [h]
  · exact ⟨rfl, rfl, rfl⟩
  · exact ⟨rfl, rfl, Journal.append_elapsed ..⟩
  · exact ⟨rfl, rfl, Journal.append_elapsed ..⟩

theorem Part.Acted.shelfOrderLaw (h : Part.Acted s t) (hc : s.ConfigLaw) (hs : s.alarm.ShelfOrderLaw) :
    t.alarm.ShelfOrderLaw := by
  rcases h.cases with h | rfl | ⟨c, l, hcs, hp, rfl⟩
  · exact h.keeps Alarm.ShelfOrderLaw (fun _ _ => Alarm.Turn.shelfOrderLaw hc.active)
      (fun a o p v ha => Alarm.deliver_shelfOrderLaw (e := s.env o) hc.active ha p v)
      (fun a j hj ha => ha.congr rfl hj) hs
  · exact Alarm.warmRestart_shelfOrderLaw (e := s.env .part) hc.active s.alarm
  · refine Part.applyCommit_keeps (P := fun u => u.alarm.ShelfOrderLaw) (fun u o ts h => ?_) (fun _ h => h) ?_
    · obtain ⟨-, h1, h2⟩ := Part.changeTestSet_alarm o ts u
      exact h.congr h1 h2
    · obtain ⟨-, hsh, -, hj⟩ := s.sourced_alarm c l
      have hx : (s.sourced c l).alarm.ShelfOrderLaw := hs.congr hsh hj
      generalize s.sourced c l = x at hx
      have hct : c.InTables := hcs ▸ Part.staged_inTables hc
      exact (Alarm.apply_shelfOrderLaw (e := s.commitEnv c) rfl (Configuration.check_self hp) hct hx).congr rfl rfl

theorem Part.Change.shelfOrderLaw (h : Part.Change s t) (hc : s.ConfigLaw) (hs : s.alarm.ShelfOrderLaw) :
    t.alarm.ShelfOrderLaw := by
  cases h with
  | beside u h => exact hs.congr (by rw [h.alarm]) h.elapsed
  | staged c => exact hs
  | settled u h => exact h.shelfOrderLaw hc hs
  | still a h => exact (Part.Acted.turned s a h).shelfOrderLaw hc hs
  | played i v => exact hs.congr rfl rfl
  | hushed i => exact hs.congr rfl rfl
  | tested o ts =>
    obtain ⟨-, h1, h2⟩ := Part.changeTestSet_alarm o ts s
    exact hs.congr h1 h2
  | ticked h =>
    have hb := Part.endCount_beside s
    have hsh : s.alarm.shelfDue.isSome = false := Bool.eq_false_iff.mpr fun hd => by
      have hm : Instr.shelfExpiry ∈ s.dueCommands := by
        rw [Part.mem_dueCommands]
        simp [hd]
      rw [h] at hm
      cases hm
    have he : s.endCount.alarm.shelf = s.alarm.shelf := by rw [hb.alarm]
    have hk : (clockAfter s.endCount.alarm.journal.elapsed 1) = clockAfter s.alarm.journal.elapsed 1 := by rw [hb.elapsed]
    exact (hs.tick hsh).congr (b := s.endCount.tick.alarm) he hk
  | reset p => exact Part.reset_shelfOrderLaw

/-! ## The relays (R113) -/

/-- The inputs of the relays: the configuration, the points, and whether the channels play a level. -/
theorem Part.relayOn_congr (ha : t.active = s.active) (hp : t.alarm.points = s.alarm.points)
    (h0 : t.alarm.sounder.ch0.inLevel = s.alarm.sounder.ch0.inLevel)
    (h1 : t.alarm.sounder.ch1.inLevel = s.alarm.sounder.ch1.inLevel) (r : RelayId) : t.relayOn r = s.relayOn r := by
  unfold Part.relayOn
  rw [ha, hp, h0, h1]

theorem Part.RelayLaw.congr (h : s.RelayLaw) (hr : t.panel.relays = s.panel.relays) (ha : t.active = s.active)
    (hp : t.alarm.points = s.alarm.points) (h0 : t.alarm.sounder.ch0.inLevel = s.alarm.sounder.ch0.inLevel)
    (h1 : t.alarm.sounder.ch1.inLevel = s.alarm.sounder.ch1.inLevel) : t.RelayLaw := fun r => by
  rw [Part.relayOn_congr ha hp h0 h1, hr]
  exact h r

theorem Part.settleRelays_relayLaw (s : Part) : s.settleRelays.RelayLaw := fun r =>
  (Part.settleRelays_relay s r).trans (Part.relayOn_congr (s := s.settleRelays) (t := s) rfl rfl rfl rfl r)

theorem Channel.inLevel_congr {k v : Channel} (h : v.mode = k.mode) : v.inLevel = k.inLevel := by
  unfold Channel.inLevel; rw [h]

/-- A channel replaced by one that plays a level exactly when it did. -/
theorem Part.setChannel_relayLaw (h : s.RelayLaw) (i : ChanId) (v : Channel) (hv : v.inLevel = (s.channel i).inLevel) :
    (s.setChannel i v).RelayLaw := by
  cases i
  · exact h.congr rfl rfl rfl hv rfl
  · exact h.congr rfl rfl rfl rfl hv

theorem Part.BesideBut.relayLaw {x : Option LinkId} (h : Part.BesideBut x s t) (hs : s.RelayLaw) : t.RelayLaw := by
  refine hs.congr h.relays h.active ?_ ?_ ?_ <;> rw [h.alarm]

theorem Part.Change.relayLaw (h : Part.Change s t) (hl : s.AlarmLaw) (hs : s.RelayLaw) : t.RelayLaw := by
  cases h with
  | beside u h => exact h.relayLaw hs
  | staged c => exact hs.congr rfl rfl rfl rfl rfl
  | settled u => exact u.settleRelays_relayLaw
  | still a _ hp h0 h1 => exact hs.congr rfl rfl hp h0 h1
  | played i v hm => exact Part.setChannel_relayLaw hs i v (Channel.inLevel_congr hm)
  | hushed i h =>
    have hm : (s.channel i).mode = .chirp := hl.channels.timer i h
    refine Part.setChannel_relayLaw hs i _ ?_
    unfold Channel.inLevel
    rw [hm]; rfl
  | tested o ts =>
    rcases Part.changeTestSet_cases o ts s with ⟨-, h⟩ | ⟨-, b, h⟩ | ⟨-, b, h⟩ <;> rw [h]
    · exact hs.congr rfl rfl rfl rfl rfl
    · exact Part.settleRelays_relayLaw _
    · exact Part.settleRelays_relayLaw _
  | ticked => exact ((Part.endCount_beside s).relayLaw hs).congr rfl rfl rfl rfl rfl
  | reset p => exact Part.reset_relayLaw.congr rfl rfl rfl rfl rfl

/-! ## The point table and the sequences (R6 to R12, R16, R17, R47, R53) -/

theorem Part.Acted.pointLaw (h : Part.Acted s t) (hl : s.AlarmLaw) (hs : s.alarm.PointLaw s.active) :
    t.alarm.PointLaw t.active := by
  rcases h.cases with h | rfl | ⟨c, l, -, hp, rfl⟩
  · rw [h.active]
    exact h.keeps (Alarm.PointLaw s.active) (fun _ _ => Alarm.Turn.pointLaw)
      (fun a o p v ha => Alarm.deliver_pointLaw (e := s.env o) ha p v) (fun a j _ ha => ha.congr rfl) hs
  · exact Alarm.warmRestart_pointLaw (e := s.env .part) hs
  · refine Part.applyCommit_keeps (P := fun u => u.alarm.PointLaw u.active) (fun u o ts h => ?_) (fun _ h => h) ?_
    · obtain ⟨h1, -⟩ := Part.changeTestSet_alarm o ts u
      rw [(Part.changeTestSet_frame o ts u).1]
      exact h.congr h1
    · have hen := (Part.sourced_tables c l ((Part.alarmLaw_iff s).mp hl).1).enabled
      have hr := s.sourced_points c l
      obtain ⟨hact, -⟩ := s.sourced_frame c l
      generalize s.sourced c l = x at *
      change Alarm.PointLaw x.active _
      rw [hact]
      exact (Alarm.apply_pointLaw (e := s.commitEnv c) rfl (Configuration.check_self hp) hen hs hr).congr rfl

theorem Part.Acted.sequenceLaw (h : Part.Acted s t) (hl : s.AlarmLaw) (hpt : s.alarm.PointLaw s.active)
    (hs : s.alarm.SequenceLaw s.active) : t.alarm.SequenceLaw t.active := by
  rcases h.cases with h | rfl | ⟨c, l, -, hp, rfl⟩
  · rw [h.active]
    exact h.keeps (Alarm.SequenceLaw s.active) (fun _ _ => Alarm.Turn.sequenceLaw)
      (fun a o p v ha => Alarm.deliver_sequenceLaw (e := s.env o) ha p v) (fun a j _ ha => ha.congr rfl) hs
  · exact Alarm.warmRestart_sequenceLaw (e := s.env .part) hs
  · refine Part.applyCommit_keeps (P := fun u => u.alarm.SequenceLaw u.active) (fun u o ts h => ?_) (fun _ h => h) ?_
    · obtain ⟨h1, -⟩ := Part.changeTestSet_alarm o ts u
      rw [(Part.changeTestSet_frame o ts u).1]
      exact h.congr h1
    · have hen := (Part.sourced_tables c l ((Part.alarmLaw_iff s).mp hl).1).enabled
      have hr := s.sourced_points c l
      obtain ⟨hact, -⟩ := s.sourced_frame c l
      generalize s.sourced c l = x at *
      change Alarm.SequenceLaw x.active _
      rw [hact]
      exact (Alarm.apply_sequenceLaw (e := s.commitEnv c) rfl (Configuration.check_self hp) hen hpt hs hr).congr rfl

/-- A law that reads the points and the active configuration alone is kept by every change that the changes of the alarms
and a reset keep it through. -/
theorem Part.Change.points {P : Configuration → Alarm → Prop} (hP : ∀ c a b, b.points = a.points → P c a → P c b)
    (ha : ∀ u, Part.Acted s u → P u.active u.alarm) (hr : P Part.reset.active Part.reset.alarm) (h : Part.Change s t)
    (hs : P s.active s.alarm) : P t.active t.alarm := by
  cases h with
  | beside u h => rw [h.active]; exact hP _ _ _ (by rw [h.alarm]) hs
  | staged c => exact hs
  | settled u h => exact ha u h
  | still a h => exact ha _ (.turned s a h)
  | played i v => exact hP _ s.alarm _ rfl hs
  | hushed i => exact hP _ s.alarm _ rfl hs
  | tested o ts =>
    rw [(Part.changeTestSet_frame o ts s).1]
    exact hP _ _ _ (Part.changeTestSet_alarm o ts s).1 hs
  | ticked =>
    have hb := Part.endCount_beside s
    change P s.endCount.active _
    rw [hb.active]
    refine hP _ s.alarm _ ?_ hs
    change s.endCount.alarm.points = _
    rw [hb.alarm]
  | reset p => exact hr

theorem Part.Change.pointLaw (h : Part.Change s t) (hl : s.AlarmLaw) (hs : s.alarm.PointLaw s.active) :
    t.alarm.PointLaw t.active :=
  h.points (P := Alarm.PointLaw) (fun _ _ _ hb ha => ha.congr hb) (fun _ ha => ha.pointLaw hl hs) Part.reset_pointLaw hs

theorem Part.Change.sequenceLaw (h : Part.Change s t) (hl : s.AlarmLaw) (hp : s.alarm.PointLaw s.active)
    (hs : s.alarm.SequenceLaw s.active) : t.alarm.SequenceLaw t.active :=
  h.points (P := Alarm.SequenceLaw) (fun _ _ _ hb ha => ha.congr hb) (fun _ ha => ha.sequenceLaw hl hp hs)
    Part.reset_sequenceLaw hs

/-- Settles O60: change by change, with the laws of the alarm blocks at hand. -/
theorem stepKeepsThePointLaws : Obligations.StepKeepsThePointLaws := by
  unfold Obligations.StepKeepsThePointLaws
  intro s t h hl hp
  refine ⟨?_, fun hq => ?_⟩
  · exact (step_keeps (P := fun s => s.AlarmLaw ∧ s.alarm.PointLaw s.active)
      (fun s t h hs => ⟨h.alarmLaw hs.1, h.pointLaw hs.1 hs.2⟩) h ⟨hl, hp⟩).2
  · exact (step_keeps (P := fun s => s.AlarmLaw ∧ s.alarm.PointLaw s.active ∧ s.alarm.SequenceLaw s.active)
      (fun s t h ⟨hl, hp, hs⟩ => ⟨h.alarmLaw hl, h.pointLaw hl hp, h.sequenceLaw hl hp hs⟩) h ⟨hl, hp, hq⟩).2.2

end Sys2Proof.Machine
end


section
/-! SUPPORT. What every change keeps of the law of the Condition Resolver (R4, R36, R44). -/

namespace Sys2Proof.Machine

variable {s t : Part} {c : Configuration} {l : LinkId}

/-! ## The law through the model's own names -/

theorem Part.sourceOpen_iff (s : Part) (l : LinkId) (p : PointId) : s.sourceOpen l p = true ↔
    s.active.points[p].source = .msgAny ∨ s.active.points[p].source = .msg l := by
  simp [Part.sourceOpen, -Fin.getElem_fin]

theorem Part.resolverLaw_iff (s : Part) : s.ResolverLaw ↔
    (∀ p : PointId, s.conditions[p].abnormal = s.conditionOf p) ∧
    (∀ p : PointId, s.alarm.points[p].abnormal = s.conditions[p].abnormal) ∧
    ∀ (p : PointId) (l : LinkId), s.conditions[p].by l = true → s.sourceOpen l p = true :=
  ⟨fun h => ⟨fun p => (h.condition p).trans rfl, h.copy, fun p l hb => (s.sourceOpen_iff l p).mpr (h.assertions p l hb)⟩,
    fun ⟨h1, h2, h3⟩ => ⟨fun p => (h1 p).trans rfl, h2, fun p l hb => (s.sourceOpen_iff l p).mp (h3 p l hb)⟩⟩

/-- A source's reading does not turn on the condition last worked out. -/
theorem Part.reading_abnormal (s : Part) (p : PointId) (d : Condition) (v : Bool) :
    s.reading p { d with abnormal := v } = s.reading p d := by
  have hb (l : LinkId) : ({ d with abnormal := v } : Condition).by l = d.by l := by cases l <;> rfl
  unfold Part.reading
  simp only [hb]

/-- A source's reading in two parts with the same source at the point, lines and links. -/
theorem Part.reading_congr {p : PointId} {d : Condition} (ha : t.active.points[p].source = s.active.points[p].source)
    (hl : ∀ n : LineId, s.active.points[p].source = .line n → t.lines[n].abnormal = s.lines[n].abnormal)
    (hk : ∀ l, s.active.points[p].source = .silent l → ((t.link l).state = .silent ↔ (s.link l).state = .silent)) :
    t.reading p d = s.reading p d := by
  unfold Part.reading
  rw [ha]
  cases hsrc : s.active.points[p].source with
  | line n => exact hl n hsrc
  | msg l => rfl
  | msgAny => rfl
  | silent l => exact decide_eq_decide.mpr (hk l hsrc)

theorem Part.ResolverLaw.congr (h : s.ResolverLaw) (ha : t.active = s.active) (hl : t.lines = s.lines)
    (hc : t.conditions = s.conditions) (hk : ∀ l, (t.link l).state = .silent ↔ (s.link l).state = .silent)
    (hp : ∀ p : PointId, t.alarm.points[p].abnormal = s.alarm.points[p].abnormal) : t.ResolverLaw := by
  rw [Part.resolverLaw_iff] at h ⊢
  obtain ⟨h1, h2, h3⟩ := h
  refine ⟨fun p => ?_, fun p => ?_, fun p l => ?_⟩
  · rw [hc, h1 p, Part.conditionOf_eq, Part.conditionOf_eq, hc]
    exact (Part.reading_congr (by rw [ha]) (fun _ _ => by rw [hl]) fun l _ => hk l).symm
  · rw [hp, hc]; exact h2 p
  · rw [hc, Part.sourceOpen, ha]; exact h3 p l

/-- The law but for the points of `ps`, whose conditions have not been worked out again. -/
structure Part.ResolverLawBut (ps : List PointId) (s : Part) : Prop where
  condition : ∀ p : PointId, p ∉ ps → s.conditions[p].abnormal = s.conditionOf p
  copy : ∀ p : PointId, s.alarm.points[p].abnormal = s.conditions[p].abnormal
  assertions : ∀ (p : PointId) (l : LinkId), s.conditions[p].by l = true → s.sourceOpen l p = true

theorem Part.brought_condition (o : Origin) (ps : List PointId) (v : PointId → Bool) (s : Part) (p : PointId) :
    (s.brought o ps v).conditions[p] = if p ∈ ps then { s.conditions[p] with abnormal := v p } else s.conditions[p] :=
  getElem_tabulate ..

/-- Conditions worked out again bring their points under the law (R37). -/
theorem Part.ResolverLawBut.brought {ps : List PointId} (h : s.ResolverLawBut ps) (o : Origin) :
    (s.brought o ps s.conditionOf).ResolverLaw := by
  have hread (p : PointId) (d : Condition) : (s.brought o ps s.conditionOf).reading p d = s.reading p d :=
    Part.reading_congr rfl (fun _ _ => rfl) fun l _ => by cases l <;> rfl
  rw [Part.resolverLaw_iff]
  refine ⟨fun p => ?_, fun p => ?_, fun p l hb => ?_⟩
  · rw [Part.conditionOf_eq, hread, Part.brought_condition]
    split
    · rw [Part.reading_abnormal, ← Part.conditionOf_eq]
    · next hp => rw [h.condition p hp, ← Part.conditionOf_eq]
  · refine (Alarm.foldl_deliver_abnormal ..).trans ?_
    rw [Part.brought_condition]
    simp only [List.mem_filter, decide_eq_true_iff]
    by_cases hp : p ∈ ps
    · by_cases hv : s.conditionOf p = s.conditions[p].abnormal
      · rw [if_neg fun hm => hm.2 hv, if_pos hp, h.copy p]
        exact hv.symm
      · rw [if_pos ⟨hp, hv⟩, if_pos hp]
    · rw [if_neg fun hm => hp hm.1, if_neg hp, h.copy p]
  · refine h.assertions p l ?_
    rw [Part.brought_condition] at hb
    split at hb
    · cases l <;> exact hb
    · exact hb

/-! ## Each change -/

/-- Assertions set on points whose source reads the link, or cleared, keep the law (R40, R41). -/
theorem Part.asserted_resolverLaw {v : Bool} {ps : List PointId} {m : Part} (hm : Part.Asserted l v ps s m)
    (hv : v = true → ∀ p ∈ ps, s.sourceOpen l p = true) (h : s.ResolverLaw) : m.ResolverLaw := by
  rw [Part.resolverLaw_iff] at h ⊢
  obtain ⟨h1, h2, h3⟩ := h
  have hread (p : PointId) (d : Condition) : m.reading p d = s.reading p d := by
    rw [hm.frame]; exact Part.resolvedAs_reading ..
  have hopen (k : LinkId) (p : PointId) : m.sourceOpen k p = s.sourceOpen k p := by rw [hm.frame]; rfl
  have hcases (p : PointId) : (p ∈ ps ∧ m.conditions[p] =
      { s.conditions[p].setBy l v with abnormal := s.reading p (s.conditions[p].setBy l v) }) ∨
      m.conditions[p] = s.conditions[p] := by
    by_cases hp : p ∉ ps ∨ s.conditions[p].by l = v
    · exact .inr (hm.kept p hp)
    · obtain ⟨hmem, hne⟩ := not_or.mp hp
      exact .inl ⟨Classical.not_not.mp hmem, hm.changed p (Classical.not_not.mp hmem) hne⟩
  refine ⟨fun p => ?_, fun p => ?_, fun p k hb => ?_⟩
  · rw [Part.conditionOf_eq, hread]
    rcases hcases p with ⟨-, hc⟩ | hc <;> rw [hc]
    · exact (Part.reading_abnormal ..).symm
    · rw [h1 p, ← Part.conditionOf_eq]
  · rw [hm.alarm, Alarm.foldl_deliver_abnormal]
    split
    · rfl
    · next hp =>
      rw [h2 p]
      by_cases hmem : p ∈ ps
      · by_contra hne
        exact hp (List.mem_filter.mpr ⟨List.mem_eraseDups.mpr hmem, decide_eq_true fun he => hne he.symm⟩)
      · rw [hm.kept p (.inl hmem)]
  · rw [hopen]
    rcases hcases p with ⟨hmem, hc⟩ | hc <;> rw [hc] at hb
    · by_cases hkl : k = l
      · subst hkl
        refine hv ?_ p hmem
        cases k <;> exact hb
      · refine h3 p k ?_
        cases k <;> cases l
        · exact absurd rfl hkl
        · exact hb
        · exact hb
        · exact absurd rfl hkl
    · exact h3 p k hb

/-- Every line whose qualified state a scan changes is among those it takes (R33). -/
theorem Part.mem_scanOrder (levels : BitVec 24) (s : Part) (n : LineId) :
    n ∈ s.scanOrder levels ↔ s.lines[n].abnormal ≠ (s.sampled levels).lines[n].abnormal := by
  unfold Part.scanOrder
  rw [(orderByRank_perm _ _).mem_iff, changedLines, List.mem_filter, decide_eq_true_iff]
  exact and_iff_right (List.mem_finRange n)

theorem Part.scan_resolverLaw (levels : BitVec 24) (h : s.ResolverLaw) : (s.scan levels).ResolverLaw := by
  rw [Part.resolverLaw_iff] at h
  obtain ⟨h1, h2, h3⟩ := h
  rw [Part.scan_eq]
  refine Part.ResolverLawBut.brought (s := s.sampled levels) ⟨fun p hp => ?_, h2, h3⟩ _
  refine (h1 p).trans ?_
  rw [Part.conditionOf_eq, Part.conditionOf_eq]
  refine (Part.reading_congr (s := s) (t := s.sampled levels) rfl (fun n hn => ?_) fun l _ => by cases l <;> rfl).symm
  by_contra hne
  exact hp (List.mem_flatMap.mpr ⟨n, (Part.mem_scanOrder ..).mpr fun he => hne he.symm, (Part.mem_pointsOn ..).mpr hn⟩)

theorem Part.BesideBut.resolverLaw (h : Part.BesideBut (some l) s t) (hs : s.ResolverLaw) (o : Origin) :
    (t.resolveAll o (t.pointsOn (.silent l))).ResolverLaw := by
  rw [Part.resolverLaw_iff] at hs
  obtain ⟨h1, h2, h3⟩ := hs
  rw [Part.resolveAll_eq _ _ _ (Part.pointsOn_nodup ..)]
  refine Part.ResolverLawBut.brought ⟨fun p hp => ?_, fun p => ?_, fun p k => ?_⟩ _
  · rw [h.conditions, h1 p, Part.conditionOf_eq, Part.conditionOf_eq, h.conditions]
    refine (Part.reading_congr (by rw [h.active]) (fun _ _ => by rw [h.lines]) fun k hk => ?_).symm
    refine h.states k fun hkl => hp ?_
    cases hkl
    rw [Part.mem_pointsOn, h.active]
    exact hk
  · rw [h.alarm, h.conditions]; exact h2 p
  · rw [h.conditions, Part.sourceOpen, h.active]; exact h3 p k

/-! ### Commit apply -/

theorem Link.applyRecord_state (now : Nat) (c : LinkConfig) (k : Link) : (k.applyRecord now c).state = k.state := by
  unfold Link.applyRecord
  simp only
  split
  · split <;> rfl
  · rfl
  · rfl

theorem Line.applyRecord_abnormal (c : LineConfig) (x : Line) : (x.applyRecord c).abnormal = x.abnormal := by
  unfold Line.applyRecord
  split <;> rfl

theorem Part.copied_lines (c : Configuration) (l : LinkId) (s : Part) (n : LineId) :
    (s.copied c l).lines[n].abnormal = s.lines[n].abnormal := by
  have h : (s.copied c l).lines[n] = s.lines[n].applyRecord c.lines[n] := getElem_tabulate ..
  rw [h]
  exact Line.applyRecord_abnormal ..

theorem Part.copied_link (c : Configuration) (l k : LinkId) (s : Part) :
    ((s.copied c l).link k).state = (s.link k).state := by
  cases k <;> exact Link.applyRecord_state ..

theorem Source.reads_iff (src : Source) (k : LinkId) : src.reads k = true ↔ src = .msgAny ∨ src = .msg k := by
  cases src with
  | line n => simp [Source.reads]
  | msg l => cases l <;> cases k <;> simp [Source.reads]
  | msgAny => simp [Source.reads]
  | silent l => simp [Source.reads]

theorem Condition.keepRead_by (src : Source) (d : Condition) (k : LinkId) :
    (d.keepRead src).by k = (d.by k && src.reads k) := by
  cases k <;> rfl

/-- What the sources read is not touched when conditions are brought into line with them. -/
theorem Part.Resourced.reading {old : Configuration} {ps : List PointId} (h : Part.Resourced old ps s t) (p : PointId)
    (d : Condition) : t.reading p d = s.reading p d := by
  have hk (k : LinkId) : t.link k = s.link k := by rw [h.frame]; cases k <;> rfl
  refine Part.reading_congr ?_ (fun n _ => ?_) fun k _ => by rw [hk]
  · rw [h.frame]
  · rw [h.frame]

/-- Conditions brought into line with changed sources obey the law, with the copies set (R44). -/
theorem Part.sourced_resolverLaw (c : Configuration) (l : LinkId) (h : s.ResolverLaw) : (s.sourced c l).ResolverLaw := by
  rw [Part.resolverLaw_iff] at h ⊢
  obtain ⟨h1, h2, h3⟩ := h
  have hr := s.sourced_resourced c l
  have hread (p : PointId) (d : Condition) : (s.sourced c l).reading p d = (s.copied c l).reading p d := by
    generalize s.sourced c l = x at hr
    exact hr.reading p d
  have hopen (p : PointId) (k : LinkId) : (s.sourced c l).sourceOpen k p = true ↔
      c.points[p].source = .msgAny ∨ c.points[p].source = .msg k := by
    rw [Part.sourceOpen_iff, (s.sourced_frame c l).1]
  have hcopied (p : PointId) : (s.copied c l).conditions[p] = s.conditions[p] := rfl
  have hact : (s.copied c l).active = c := rfl
  generalize s.sourced c l = x at *
  refine ⟨fun p => ?_, fun p => ?_, fun p k hb => ?_⟩ <;> by_cases hsrc : c.points[p].source = s.active.points[p].source
  · obtain ⟨hc, -, -⟩ := hr.kept p (.inr hsrc)
    rw [Part.conditionOf_eq, hread, hc, hcopied, h1 p, Part.conditionOf_eq]
    refine (Part.reading_congr hsrc (fun n _ => Part.copied_lines ..) fun k _ => ?_).symm
    rw [Part.copied_link]
  · obtain ⟨hc, -, -⟩ := hr.changed p (List.mem_finRange p) hsrc
    rw [Part.conditionOf_eq, hread, hc]
    exact (Part.reading_abnormal ..).symm
  · obtain ⟨hc, hp, -⟩ := hr.kept p (.inr hsrc)
    rw [hc, hp]
    exact h2 p
  · obtain ⟨-, hp, -⟩ := hr.changed p (List.mem_finRange p) hsrc
    rw [hp]
  · obtain ⟨hc, -, -⟩ := hr.kept p (.inr hsrc)
    rw [hc, hcopied] at hb
    rw [hopen, hsrc, ← Part.sourceOpen_iff]
    exact h3 p k hb
  · obtain ⟨hc, -, -⟩ := hr.changed p (List.mem_finRange p) hsrc
    rw [hopen, ← Source.reads_iff]
    rw [hc] at hb
    have hb : ((s.conditions[p].keepRead c.points[p].source).by k) = true := by cases k <;> exact hb
    rw [Condition.keepRead_by] at hb
    exact (Bool.and_eq_true_iff.mp hb).2

theorem Part.changeTestSet_resolverLaw (o : Origin) (ts : TestSet) (h : s.ResolverLaw) :
    (s.changeTestSet o ts).ResolverLaw := by
  rcases Part.changeTestSet_cases o ts s with ⟨-, he⟩ | ⟨-, b, he⟩ | ⟨-, b, he⟩ <;> rw [he] <;>
    exact h.congr rfl rfl rfl (fun l => by cases l <;> rfl) fun _ => rfl

theorem Part.evaluated_resolverLaw {x : Part} (hp : c.check l = .passed) (h : x.ResolverLaw) :
    (s.evaluated c x).ResolverLaw :=
  h.congr rfl rfl rfl (fun l => by cases l <;> rfl) fun p =>
    Alarm.apply_abnormal (e := s.commitEnv c) rfl (Configuration.check_self hp) p

theorem Part.settleRelays_resolverLaw (h : s.ResolverLaw) : s.settleRelays.ResolverLaw :=
  h.congr rfl rfl rfl (fun l => by cases l <;> rfl) fun _ => rfl

/-! ### Every change -/

theorem Part.Acted.resolverLaw (h : Part.Acted s t) (hs : s.ResolverLaw) : t.ResolverLaw := by
  cases h with
  | turned a h =>
    refine hs.congr rfl rfl rfl (fun l => by cases l <;> rfl) fun p => ?_
    exact h.keeps (P := fun b => b.points[p].abnormal = s.alarm.points[p].abnormal)
      (fun _ _ hab ha => (hab.abnormal p).trans ha) rfl
  | asserted l v ps h => exact Part.asserted_resolverLaw (Part.foldl_asserted l v ps s) h hs
  | scanned levels => exact Part.scan_resolverLaw levels hs
  | relinked u l h => exact h.resolverLaw hs _
  | rebuilt =>
    exact hs.congr rfl rfl rfl (fun l => by cases l <;> rfl) fun p => Alarm.warmRestart_abnormal ..
  | applied c l _ hp =>
    exact Part.applyCommit_keeps (P := Part.ResolverLaw) (fun _ o ts => Part.changeTestSet_resolverLaw o ts)
      (fun _ => Part.settleRelays_resolverLaw) (Part.evaluated_resolverLaw hp (Part.sourced_resolverLaw c l hs))

theorem Part.BesideBut.resolved (h : Part.Beside s t) (hs : s.ResolverLaw) : t.ResolverLaw :=
  hs.congr h.active h.lines h.conditions (fun l => h.states l nofun) fun p => by rw [h.alarm]

theorem Part.Change.resolverLaw (h : Part.Change s t) (hs : s.ResolverLaw) : t.ResolverLaw := by
  cases h with
  | beside u h => exact h.resolved hs
  | staged c => exact hs.congr rfl rfl rfl (fun l => by cases l <;> rfl) fun _ => rfl
  | settled u h => exact Part.settleRelays_resolverLaw (h.resolverLaw hs)
  | still a h => exact (Part.Acted.turned s a h).resolverLaw hs
  | played i v => exact hs.congr rfl rfl rfl (fun l => by cases l <;> rfl) fun _ => rfl
  | hushed i => exact hs.congr rfl rfl rfl (fun l => by cases l <;> rfl) fun _ => rfl
  | tested o ts => exact Part.changeTestSet_resolverLaw o ts hs
  | ticked =>
    exact ((Part.endCount_beside s).resolved hs).congr rfl rfl rfl (fun l => by cases l <;> rfl) fun _ => rfl
  | reset p => exact Part.reset_resolverLaw.congr rfl rfl rfl (fun l => by cases l <;> rfl) fun _ => rfl

/-- Settles O59: change by change, each law with those it leans on. -/
theorem stepKeepsTheAlarmLaws : Obligations.StepKeepsTheAlarmLaws := by
  unfold Obligations.StepKeepsTheAlarmLaws
  intro s t h
  refine ⟨step_keeps (fun _ _ => Part.Change.alarmLaw) h, fun hl hc hs => ?_,
    step_keeps (fun _ _ => Part.Change.resolverLaw) h, fun hl hs => ?_⟩
  · exact (step_keeps (P := fun s => s.ConfigLaw ∧ s.alarm.ShelfOrderLaw)
      (fun s t h hs => ⟨h.configLaw hs.1, h.shelfOrderLaw hs.1 hs.2⟩) h ⟨hc, hs⟩).2
  · exact (step_keeps (P := fun s => s.AlarmLaw ∧ s.RelayLaw)
      (fun s t h hs => ⟨h.alarmLaw hs.1, h.relayLaw hs.1 hs.2⟩) h ⟨hl, hs⟩).2

end Sys2Proof.Machine
end


section
/-! SUPPORT. The requests that read (R25, R26, R34, R51, R75, R98, R114). -/

namespace Sys2Proof.Machine

variable {s : State} {l : LinkId} {f : Frame}

/-! ## Read Point (R25) -/

/-- A run of the points, cut out of their list by number. -/
theorem allPoints_run (first count : Nat) :
    (allPoints.filter fun p => first ≤ p.val ∧ p.val < first + count) = (allPoints.drop first).take count := by
  have hs : allPoints.Pairwise (· < ·) := List.pairwise_lt_finRange 96
  refine (hs.sublist List.filter_sublist).eq_of_mem_iff
    (hs.sublist ((List.take_sublist ..).trans (List.drop_sublist ..))) fun p => ?_
  rw [List.mem_filter, List.mem_take_iff_getElem, decide_eq_true_iff]
  simp only [allPoints, List.mem_finRange, true_and, List.getElem_drop, List.getElem_finRange, List.length_drop,
    List.length_finRange]
  constructor
  · rintro ⟨h1, h2⟩
    exact ⟨p.val - first, by omega, Fin.ext (by simp; omega)⟩
  · rintro ⟨i, hi, rfl⟩
    simp only [Fin.val_cast]
    omega

theorem PointState.code_eq (t : PointState) : t.code = (match t with
    | .disabled => 0 | .idle => 1 | .alerting => 2 | .standing => 3 | .returned => 4 | .awaitReset => 5
    | .suppressed => 6 | .shelved => 7) := by
  cases t <;> rfl

theorem pointFlags_eq (b0 b1 b2 b3 b4 : Bool) : pointFlags b0 b1 b2 b3 b4 =
    (if b0 then 1 else 0) + (if b1 then 2 else 0) + (if b2 then 4 else 0) + (if b3 then 8 else 0) +
      (if b4 then 16 else 0) := rfl

/-- A claim stands in ALERTING, unhushed, at a priority that has a level (R18). -/
theorem claimOf_isSome (c : PointConfig) (d : Point) :
    (claimOf c d).isSome = true ↔ d.state = .alerting ∧ d.hushed = false ∧ c.priority ≠ .mute := by
  unfold claimOf
  by_cases h : d.state = .alerting ∧ d.hushed = false
  · rw [if_pos h]
    cases c.priority <;> simp [Priority.level?, h]
  · rw [if_neg h]
    exact ⟨nofun, fun hd => absurd ⟨hd.1, hd.2.1⟩ h⟩

theorem seqPriority_code (q : Sequence) (y : Priority) : q.code * 16 + y.code =
    (match q with | .hold => 0 | .follow => 16 | .notice => 32) +
      (match y with | .mute => 0 | .low => 1 | .high => 2 | .urgent => 3) := by
  cases q <;> cases y <;> rfl

theorem secondsUp_remaining (now : Nat) (t : Timer) : secondsUp (Timer.remaining now t) =
    (match t with
      | none => 0
      | some x => (timeLeft now x + 999) / 1000) := by
  cases t with
  | none => exact (by decide : (0 + 999) / 1000 = 0)
  | some x => rfl

theorem Part.begin_pointStatus (s : Part) (l : LinkId) (f : Frame) : (s.begin l f).pointStatus = s.pointStatus := by
  funext p
  unfold Part.pointStatus
  rw [Part.begin_active, Part.begin_alarm]

/-- Settles O11: the record field by field, and the run as a stretch of the list of points. -/
theorem readPointAnswersTheRun : Obligations.ReadPointAnswersTheRun := by
  unfold Obligations.ReadPointAnswersTheRun
  refine ⟨fun s p => ?_, fun s l f first count h hf hc => ?_⟩
  · intro c d
    have hflags := pointFlags_eq d.abnormal c.enabled d.mark d.hushed (claimOf c d).isSome
    rw [if_congr (claimOf_isSome c d) rfl rfl] at hflags
    exact congr(be 1 p.val ++ be 1 $(PointState.code_eq d.state) ++ be 1 $hflags ++
      be 1 $(seqPriority_code c.sequence c.priority) ++ be 2 d.occurrence ++ be 4 d.entryStamp ++
      be 2 $(secondsUp_remaining s.alarm.journal.elapsed d.reminder))
  · change (_ → _ → _ → execReadPoint l s = _) ∧ (_ → execReadPoint l s = _) ∧ (_ → _ → execReadPoint l s = _)
    subst hf hc
    refine ⟨fun h1 h2 h3 => State.run_answered h _ ?_, fun h1 => State.run_answered h _ ?_,
      fun h1 h2 => State.run_answered h _ ?_⟩ <;> unfold readPointBody <;> simp only
    · rw [if_neg (by rw [within_eq_false]; omega), if_neg (by rw [within_eq_false]; omega), if_neg (by omega),
        allPoints_run, Part.begin_pointStatus]
    · rw [if_pos (within_eq_false.mpr (.inr h1))]
      rfl
    · rw [if_neg (by rw [within_eq_false]; omega)]
      by_cases hc : field f.body 1 1 = 0 ∨ 16 < field f.body 1 1
      · rw [if_pos (within_eq_false.mpr (by omega))]
        rfl
      · rw [if_neg (by rw [within_eq_false]; omega), if_pos (by omega)]
        rfl

end Sys2Proof.Machine
end


section
/-! SUPPORT. The requests with an empty body that read the part, answer by answer (R26, R34, R51, R75, R98, R114). -/

namespace Sys2Proof.Machine

/-! ## What the answers' characters are -/

/-- A point claims at the level that has its priority's number (R18). -/
theorem claimOf_eq_some (c : PointConfig) (d : Point) (v : Level) :
    claimOf c d = some v ↔ d.state = .alerting ∧ d.hushed = false ∧ c.priority.code = v.code := by
  unfold claimOf
  by_cases h : d.state = .alerting ∧ d.hushed = false
  · rw [if_pos h, ← and_assoc, and_iff_right h]
    cases c.priority <;> cases v <;> simp [Priority.level?, Priority.code, Level.code]
  · rw [if_neg h]
    exact ⟨nofun, fun hd => absurd ⟨hd.1, hd.2.1⟩ h⟩

theorem Part.claimedLevels_eq (s : Part) :
    let claimed (v : Level) : Bool := allPoints.any fun p => decide (s.alarm.points[p].state = .alerting ∧
      s.alarm.points[p].hushed = false ∧ s.active.points[p].priority.code = v.code)
    s.claimedLevels = ⟨claimed .low, claimed .high, claimed .urgent⟩ := by
  unfold Part.claimedLevels
  simp only [claimOf_eq_some]

theorem LevelSet.code_eq (w : LevelSet) :
    w.code = (if w.low then 2 else 0) + (if w.high then 4 else 0) + (if w.urgent then 8 else 0) := rfl

theorem Alarm.countIn_eq (a : Alarm) (t : PointState) :
    a.countIn t = allPoints.countP fun p => a.points[p].state = t := List.countP_eq_length_filter.symm

theorem Part.activeMembers_eq (s : Part) (g : GroupId) : s.activeMembers g =
    allPoints.countP fun p => decide (s.active.points[p].group = some g) && s.alarm.points[p].state.active := by
  unfold Part.activeMembers Configuration.membersOf
  rw [List.filter_filter, ← List.countP_eq_length_filter]
  exact List.countP_congr fun p _ => by rw [Bool.and_comm]

theorem shelfSeconds_eq (now expiry : Nat) : shelfSeconds now expiry = max 1 ((timeLeft now expiry + 999) / 1000) := by
  unfold shelfSeconds secondsUp
  simp only
  split <;> omega

theorem Channel.shown_eq (c : Channel) : c.soundingHz =
    if c.mode = .idle ∨ c.phaseOn = false then 0 else match c.copy, c.pitch with
      | .level t, .a => t.pitchA
      | .level t, .b => t.pitchB
      | .test t, .a => t.pitchA
      | .test t, .b => t.pitchB
      | .chirp t, _ => t.pitch := by
  have hs : c.sounding = true ↔ ¬(c.mode = .idle ∨ c.phaseOn = false) := by simp [Channel.sounding]
  unfold Channel.soundingHz Channel.pitchHz
  by_cases h : c.mode = .idle ∨ c.phaseOn = false
  · exact (if_neg fun hc => hs.mp hc h).trans (if_pos h).symm
  · exact (if_pos (hs.mpr h)).trans (if_neg h).symm

theorem Channel.chars_eq (c : Channel) : c.chars =
    be 1 (match c.mode with | .idle => 0 | .level _ => 1 | .chirp => 2 | .test => 3) ++
      be 1 (match c.mode with | .level v => v.code | _ => 0) ++ be 1 (if c.mode = .idle then 0 else c.loudness) ++
      be 2 (if c.mode = .idle ∨ c.phaseOn = false then 0 else match c.copy, c.pitch with
        | .level t, .a => t.pitchA
        | .level t, .b => t.pitchB
        | .test t, .a => t.pitchA
        | .test t, .b => t.pitchB
        | .chirp t, _ => t.pitch) := by
  have hm : c.mode.code = (match c.mode with | .idle => 0 | .level _ => 1 | .chirp => 2 | .test => 3) := by
    cases c.mode <;> rfl
  have hl : c.mode.levelCode = (match c.mode with | .level v => v.code | _ => 0) := by cases c.mode <;> rfl
  exact congr(be 1 $hm ++ be 1 $hl ++ be 1 c.shownLoudness ++ be 2 $(Channel.shown_eq c))

theorem Sounder.w_code (x : Sounder) : x.w.code =
    (if x.claims1 ≠ [] then 2 else 0) + (if x.claims2 ≠ [] then 4 else 0) + (if x.claims3 ≠ [] then 8 else 0) := by
  have hw (cs : List Claim) : (!cs.isEmpty) = true ↔ cs ≠ [] := by cases cs <;> simp
  rw [LevelSet.code_eq]
  simp only [Sounder.w, hw]

theorem Sounder.levelChars_eq (x : Sounder) (v : Level) : x.levelChars v =
    be 1 (x.claims v).length ++ (match (x.claims v).getLast? with
      | none => be 1 255 ++ be 4 0
      | some y => be 1 y.point.val ++ be 4 y.stamp) := by
  unfold Sounder.levelChars Sounder.lead
  cases (x.claims v).getLast? <;> rfl

theorem keyFlags_eq (w : Wire) (b c : Bool) :
    keyFlags w b c = (if w = .high then 1 else 0) + (if b then 2 else 0) + (if c then 4 else 0) := by
  cases w <;> rfl

theorem lineFlags_eq (w : Wire) (b : Bool) :
    lineFlags w b = (if w = .high then 1 else 0) + (if b then 2 else 0) := by
  cases w <;> rfl

/-- Settles O12: each reply, character by character. -/
theorem readsAnswerWhatStands : Obligations.ReadsAnswerWhatStands := by
  unfold Obligations.ReadsAnswerWhatStands
  intro s l f claimed x channel list
  refine ⟨fun h => State.run_answered h readSummaryBody ?_, fun h => State.run_answered h readLinesBody ?_,
    fun h => State.run_answered h readGroupsBody ?_, fun h => State.run_answered h readShelfBody ?_,
    fun h => State.run_answered h readSoundersBody ?_, fun h => State.run_answered h readPanelBody ?_⟩
  · unfold readSummaryBody
    rw [LevelSet.code_eq, Part.claimedLevels_eq]
    simp only [Part.begin_alarm, Part.begin_manager, Part.begin_active, Alarm.countIn_eq]
    rfl
  · unfold readLinesBody
    simp only [Part.begin_lines, lineFlags_eq]
  · unfold readGroupsBody
    simp only [Part.activeMembers_eq, Part.begin_alarm, Part.begin_active]
    rfl
  · unfold readShelfBody
    have hn : ShelfEntry.chars s.alarm.journal.elapsed = fun n => be 1 n.point.val ++ be 1 n.origin.code ++ be 2 n.minutes ++
        be 4 (max 1 ((timeLeft s.alarm.journal.elapsed n.expiry + 999) / 1000)) := by
      funext n
      rw [ShelfEntry.chars, shelfSeconds_eq]
    rw [Part.begin_alarm, hn]
  · unfold readSoundersBody
    have hc (c : Channel) : c.chars = channel c := Channel.chars_eq c
    have hl (v : Level) : x.levelChars v = list (x.claims v) := Sounder.levelChars_eq x v
    simp only [Part.begin_alarm, Part.begin_panel, hc, Sounder.w_code]
    exact congr((s.begin l f, okAnswer (channel x.ch0 ++ channel x.ch1 ++
      be 1 ((if x.claims1 ≠ [] then 2 else 0) + (if x.claims2 ≠ [] then 4 else 0) + (if x.claims3 ≠ [] then 8 else 0)) ++
      $(hl .urgent) ++ $(hl .high) ++ $(hl .low) ++ be 1 (yesNo x.dual) ++ be 1 (yesNo s.panel.testSet.active) ++
      be 2 x.dropped)))
  · unfold readPanelBody
    simp only [Part.begin_alarm, Part.begin_panel, Part.begin_active, keyFlags_eq, List.flatMap_cons, List.flatMap_nil,
      List.append_nil, List.append_assoc]

end Sys2Proof.Machine
end


section
/-! SUPPORT. What a condition change does to a point, and what its lamp, claim and relays show (R4, R9 to R13, R16, R18, R19,
R70 to R74, R113). -/

namespace Sys2Proof.Machine

/-! ## Patterns, claims and relays (R18, R19, R113) -/

theorem Channel.inLevel_iff (c : Channel) : c.inLevel = true ↔ ∃ v, c.mode = .level v := by
  unfold Channel.inLevel
  cases c.mode <;> simp

theorem Point.unacked_iff (d : Point) : d.unacked = true ↔ d.state = .alerting ∨ d.state = .returned := by
  simp [Point.unacked]

theorem PointState.active_iff (t : PointState) :
    t.active = true ↔ t = .alerting ∨ t = .standing ∨ t = .returned ∨ t = .awaitReset := by
  cases t <;> simp [PointState.active]

theorem claimOf_eq_none (c : PointConfig) (d : Point) :
    claimOf c d = none ↔ ¬(d.state = .alerting ∧ d.hushed = false ∧ 1 ≤ c.priority.code) := by
  have hp : c.priority ≠ .mute ↔ 1 ≤ c.priority.code := by cases c.priority <;> simp [Priority.code]
  rw [← hp, ← claimOf_isSome, Option.not_isSome_iff_eq_none]

theorem Part.relayOn_iff (s : Part) (r : RelayId) : s.relayOn r = true ↔ (match s.active.relays[r] with
    | .off => False
    | .unacked => ∃ p : PointId, s.active.points[p].relays.has r = true ∧
        (s.alarm.points[p].state = .alerting ∨ s.alarm.points[p].state = .returned)
    | .active => ∃ p : PointId, s.active.points[p].relays.has r = true ∧ s.alarm.points[p].state.active = true
    | .sounding => ∃ c v, (s.channel c).mode = .level v) := by
  unfold Part.relayOn
  cases s.active.relays[r] with
  | off => simp
  | unacked => simp [allPoints, Point.unacked_iff, -Fin.getElem_fin]
  | active => simp [allPoints, -Fin.getElem_fin]
  | sounding =>
    rw [ChanId.exists_iff, Bool.or_eq_true, Channel.inLevel_iff, Channel.inLevel_iff]
    rfl

/-- Settles O22: by cases on the state, and on the relay's mode. -/
theorem patternsClaimsAndRelaysFollowTheState : Obligations.PatternsClaimsAndRelaysFollowTheState := by
  unfold Obligations.PatternsClaimsAndRelaysFollowTheState
  refine ⟨fun c d => ⟨?_, d.unacked_iff, d.state.active_iff, claimOf_eq_some c d, claimOf_eq_none c d⟩, fun s r => ?_⟩
  · unfold Point.pattern
    cases d.state <;> rfl
  · rw [Part.settleRelays_relay]
    exact s.relayOn_iff r

/-! ## QA and QN by the sequences' tables (R9 to R13, R15) -/

variable {e : Env} {a : Alarm} {p : PointId}

/-- The rows of the tables in which QA begins a new occurrence. -/
abbrev Sequence.qaBegins (q : Sequence) (t : PointState) : Prop :=
  t = .idle ∨ (t = .awaitReset ∧ q = .hold) ∨ (t = .returned ∧ q = .follow)

/-- The rows of the tables in which QN changes the state. -/
abbrev Sequence.qnMoves (q : Sequence) (t : PointState) : Prop :=
  t = .standing ∨ (t = .alerting ∧ q = .follow) ∨ t = .suppressed

theorem Alarm.qa_begins (h : e.config.points[p].sequence.qaBegins a.points[p].state) :
    a.qa e p = a.newOccurrence e p .qa := by
  unfold Alarm.qa
  rcases h with h | ⟨h, hq⟩ | ⟨h, hq⟩ <;> simp only [h]
  · simp only [hq]
  · simp only [hq]

theorem Alarm.qa_stays (h : ¬e.config.points[p].sequence.qaBegins a.points[p].state) : a.qa e p = a.stay e p .qa := by
  unfold Alarm.qa
  split
  · next ht => exact absurd (.inl ht) h
  · next ht hq => exact absurd (.inr (.inl ⟨ht, hq⟩)) h
  · next ht hq => exact absurd (.inr (.inr ⟨ht, hq⟩)) h
  · rfl

theorem Alarm.qn_standing (h : a.points[p].state = .standing) : a.qn e p =
    a.move e p (if e.config.points[p].sequence = .hold then .awaitReset else .idle) .qn := by
  unfold Alarm.qn
  rw [h]
  cases e.config.points[p].sequence <;> rfl

theorem Alarm.qn_alerting (h : a.points[p].state = .alerting) (hq : e.config.points[p].sequence = .follow) :
    a.qn e p = a.move e p .returned .qn := by
  unfold Alarm.qn
  rw [h, hq]

theorem Alarm.qn_stays (h : ¬e.config.points[p].sequence.qnMoves a.points[p].state) : a.qn e p = a.stay e p .qn := by
  unfold Alarm.qn
  split
  · next ht _ => exact absurd (.inl ht) h
  · next ht _ => exact absurd (.inl ht) h
  · next ht _ => exact absurd (.inl ht) h
  · next ht hq => exact absurd (.inr (.inl ⟨ht, hq⟩)) h
  · next ht => exact absurd (.inr (.inr ht)) h
  · rfl

/-- Settles O20: row by row of the sequences' tables. -/
theorem conditionChangesFollowTheTables : Obligations.ConditionChangesFollowTheTables := by
  unfold Obligations.ConditionChangesFollowTheTables
  intro e p a hs q t
  refine ⟨fun h => ?_, fun h => Alarm.qa_stays h, fun h => ?_, fun h => ?_, fun h => ?_, fun h => ?_,
    fun h => Alarm.qn_stays h⟩
  · rw [Alarm.qa_begins h]
    exact Alarm.newOccurrence_begun e p .qa a hs
  · rw [Alarm.qn_standing h.1, if_pos h.2]
    exact Alarm.move_moved e p _ .qn a (.inl nofun)
  · rw [Alarm.qn_standing h.1, if_neg h.2]
    exact Alarm.move_moved e p _ .qn a (.inl nofun)
  · rw [Alarm.qn_alerting h.1 h.2]
    exact Alarm.move_moved e p _ .qn a (.inl nofun)
  · rw [Alarm.qn_suppressed e h]
    exact Alarm.move_moved e p _ .qn a (.inl nofun)

/-! ## Deliveries and the chatter count (R4, R37, R71, R73, R74) -/

/-- What a counted QA makes of the point's chatter record, short of the limit. -/
abbrev Chatter.counted (e : Env) (now : Nat) (c : Chatter) : Chatter :=
  ⟨c.count + 1, if c.count = 0 then some (clockAfter now (e.config.global.chatterWindow * 1000)) else c.window⟩

theorem Alarm.countQA_eq (h : e.config.points[p].chatterLimit ≠ 0) : a.countQA e p =
    if e.config.points[p].chatterLimit ≤ a.chatter[p].count + 1 then a.limitReached e p
    else a.setChatter p (a.chatter[p].counted e a.journal.elapsed) := by
  have hc : (if a.chatter[p].count = 0 then
      (⟨1, some (clockAfter a.journal.elapsed (e.config.global.chatterWindow * 1000))⟩ : Chatter)
      else { a.chatter[p] with count := a.chatter[p].count + 1 }) = a.chatter[p].counted e a.journal.elapsed := by
    unfold Chatter.counted
    split
    · next h0 => rw [h0]
    · rfl
  unfold Alarm.countQA
  simp only [hc]
  exact if_neg h

theorem Alarm.countQA_none (h : e.config.points[p].chatterLimit = 0) : a.countQA e p = a := if_pos h

theorem Alarm.countQA_limit (h : e.config.points[p].chatterLimit ≠ 0)
    (hl : e.config.points[p].chatterLimit ≤ a.chatter[p].count + 1) : a.countQA e p = a.limitReached e p := by
  rw [Alarm.countQA_eq h, if_pos hl]

theorem Alarm.deliver_disabled (h : a.points[p].state = .disabled) (v : Bool) : a.deliver e p v = a.setCondition p v := by
  unfold Alarm.deliver
  rw [h]

theorem Alarm.deliver_normal (h : a.points[p].state ≠ .disabled) :
    a.deliver e p false = (a.setCondition p false).qn e p := by
  unfold Alarm.deliver
  split
  · next hs => exact absurd hs h
  · next hv => cases hv
  · next hv _ _ => cases hv
  · rfl

theorem Alarm.deliver_shelved (h : a.points[p].state = .shelved) :
    a.deliver e p true = (a.setCondition p true).qa e p := by
  unfold Alarm.deliver
  rw [h]

theorem Alarm.deliver_counted (h : a.points[p].state ≠ .disabled) (h' : a.points[p].state ≠ .shelved) :
    a.deliver e p true = ((a.setCondition p true).qa e p).countQA e p := by
  unfold Alarm.deliver
  split
  · next hs => exact absurd hs h
  · next hs _ => exact absurd hs h'
  · rfl
  · next hv _ => cases hv

/-- Settles O21: by the state the delivery finds, and by where the count stands against the limit. -/
theorem deliveriesActAndAreCounted : Obligations.DeliveriesActAndAreCounted := by
  unfold Obligations.DeliveriesActAndAreCounted
  refine ⟨fun e p v a => ⟨fun h => ?_, fun h hv => ?_, fun h hv => ?_, fun h h' hv => ?_⟩,
    fun e p a => ⟨Alarm.countQA_none, fun h h' => ?_, fun h h' hl => ?_, fun h h' hl => ?_⟩⟩
  · rw [Alarm.deliver_disabled h]
    exact ⟨fun q => Alarm.setCondition_points .., rfl, rfl, rfl, rfl, rfl⟩
  · rw [hv]; exact Alarm.deliver_normal h
  · rw [hv]; exact Alarm.deliver_shelved h
  · rw [hv]; exact Alarm.deliver_counted h h'
  · rw [Alarm.countQA_eq h, if_neg (Nat.not_le.mpr h')]
  · rw [Alarm.countQA_limit h h', Alarm.limitReached, if_pos (show a.shelf.length < Config.shelfSize from hl)]
    exact Alarm.move_moved { e with origin := .part } p .shelved .chatter _ (.inl nofun)
  · rw [Alarm.countQA_limit h h', Alarm.limitReached, if_neg (Nat.not_lt.mpr (show Config.shelfSize ≤ a.shelf.length from hl))]

/-! ## Reminders (R16) -/

theorem Alarm.reminded (e : Env) (h : a.points[p].state = .standing) :
    { a.moved e p .alerting with entryStamp := a.journal.nextSeq } =
      { a.points[p] with
        state := .alerting, hushed := false, reminder := none, entryStamp := a.journal.nextSeq } := by
  unfold Alarm.moved
  simp [h, PointState.active, -Fin.getElem_fin]

/-- Settles O28: the one change of a reminder, field by field. -/
theorem reminderBringsThePointBack : Obligations.ReminderBringsThePointBack := by
  unfold Obligations.ReminderBringsThePointBack
  intro s p d hs hr hd
  have hdue : s.reminderDue p = true := by
    unfold Part.reminderDue
    rw [hs, hr]
    simpa [Timer.due] using hd
  let a := s.alarm.remind (s.env .timer) p
  have hpts (q : PointId) : a.points[q] = if q = p then { s.alarm.points[p] with
      state := .alerting, hushed := false, reminder := none, entryStamp := s.alarm.journal.nextSeq }
      else s.alarm.points[q] := by
    rw [← Alarm.reminded (s.env .timer) hs]
    exact Alarm.remind_points ..
  have hp := hpts p
  rw [if_pos rfl] at hp
  refine ⟨a, ?_, hpts, ?_, ?_, ?_, rfl, rfl, rfl⟩
  · change execReminderExpiry p.val s = _
    unfold execReminderExpiry
    rw [point?_val]
    change State.becomes s (s.reminderExpired p) = _
    unfold Part.reminderExpired
    rw [if_pos hdue]
    rfl
  · refine (Alarm.transition_journal ..).trans ?_
    rw [hs, hp, Alarm.reminded (s.env .timer) hs]
  · refine (Alarm.transition_claimLevel ..).trans ?_
    rw [if_pos rfl, Alarm.reminded (s.env .timer) hs]
    exact if_pos ⟨rfl, rfl⟩
  · refine (Alarm.transition_lamps ..).trans ?_
    rw [if_pos rfl, Alarm.reminded (s.env .timer) hs, hp]

end Sys2Proof.Machine
end


section
/-! SUPPORT. The requests on one point and their checks, and the points that come back from the shelf (R14, R21, R24, R39, R64,
R67, R68, R72). -/

namespace Sys2Proof.Machine

variable {s : State} {l : LinkId} {f : Frame} {e : Env} {a : Alarm} {p : PointId}

/-! ## A request on one point -/

/-- What a request on one point makes of the part whose link has begun its frame (11.4). -/
theorem Part.begin_onPoint (s : Part) (l : LinkId) (f : Frame) (p : PointId) (g : Env → Alarm → Alarm) :
    (s.begin l f).onPoint l p g = ((s.begin l f).withAlarm (g (s.env (.link l)) s.alarm),
      okAnswer (be 1 (g (s.env (.link l)) s.alarm).points[p].state.code ++
        be 2 (g (s.env (.link l)) s.alarm).points[p].occurrence)) := by
  unfold Part.onPoint Part.act
  rw [Part.begin_env, Part.begin_alarm]
  rfl

theorem Part.begin_stateData (s : Part) (l : LinkId) (f : Frame) (p : PointId) :
    (s.begin l f).stateData p = s.stateData p := by
  unfold Part.stateData
  rw [Part.begin_alarm]

/-! ## Acknowledge Point (R9, R10, R21) -/

/-- The rows of the tables in which ACK moves a point in state `t` with this condition to `u`. -/
abbrev Sequence.ackMoves (q : Sequence) (t : PointState) (abnormal : Bool) (u : PointState) : Prop :=
  q = .hold ∧ t = .alerting ∧ u = (if abnormal then .standing else .awaitReset) ∨
    q = .follow ∧ t = .alerting ∧ u = .standing ∨ q = .follow ∧ t = .returned ∧ u = .idle

theorem Alarm.ack_moves {t : PointState}
    (h : e.config.points[p].sequence.ackMoves a.points[p].state a.points[p].abnormal t) :
    a.ack e p = a.move e p t .ack ∧ t ≠ .suppressed ∧ a.points[p].pendingAck = true := by
  unfold Alarm.ack Point.pendingAck
  rcases h with ⟨hq, hs, rfl⟩ | ⟨hq, hs, rfl⟩ | ⟨hq, hs, rfl⟩ <;> simp only [hq, hs]
  · exact ⟨trivial, by split <;> nofun, rfl⟩
  · exact ⟨trivial, nofun, rfl⟩
  · exact ⟨trivial, nofun, rfl⟩

theorem Point.pendingAck_iff (d : Point) : d.pendingAck = true ↔ d.state = .alerting ∨ d.state = .returned := by
  simp [Point.pendingAck]

/-- Settles O23: ACK is the move of its row, with everything a move can do. -/
theorem acknowledgePointMovesThePoint : Obligations.AcknowledgePointMovesThePoint := by
  unfold Obligations.AcknowledgePointMovesThePoint
  intro s l f p t h hp ho ht
  obtain ⟨hack, hne, hpend⟩ := Alarm.ack_moves (e := s.env (.link l)) ht
  have hm := Alarm.move_moved (s.env (.link l)) p t .ack s.alarm (.inl hne)
  refine ⟨s.alarm.move (s.env (.link l)) p t .ack, State.run_ready h acknowledgePointBody ?_, hm⟩
  unfold acknowledgePointBody
  rw [hp, point?_val]
  dsimp only
  rw [Part.begin_alarm, if_neg (by rw [hpend]; nofun), if_neg (by rcases ho with ho | ho <;> simp [ho, -Fin.getElem_fin]),
    Part.begin_onPoint, hack, hm.state, hm.occurrence]

/-! ## Checks before anything acts (R21, R39, R64) -/

/-- The entries that pass leave a list's refusal to the first that fails (R39). -/
theorem Part.checkList_error {s : Part} {l : LinkId} {ps : List PointId} {bs : List Byte} {r : Answer} {n : Nat}
    (hps : ∀ p ∈ ps, s.sourceOpen l p = true) (h : s.checkList l (n + ps.length) bs = .error r) :
    s.checkList l n (ps.map (fun p => BitVec.ofNat 8 p.val) ++ bs) = .error r := by
  induction ps generalizing n with
  | nil => exact h
  | cons p ps ih =>
    have hb : (BitVec.ofNat 8 p.val).toNat = p.val := by
      rw [BitVec.toNat_ofNat]
      exact Nat.mod_eq_of_lt (by omega)
    rw [List.map_cons, List.cons_append, Part.checkList, hb, point?_val]
    dsimp only
    rw [if_pos (hps p List.mem_cons_self), ih (fun q hq => hps q (List.mem_cons_of_mem _ hq))]
    rw [← h, List.length_cons]
    congr 1
    omega

theorem Part.begin_sourceOpen (s : Part) (l m : LinkId) (f : Frame) (p : PointId) :
    (s.begin l f).sourceOpen m p = s.sourceOpen m p := by
  unfold Part.sourceOpen
  rw [Part.begin_active]

/-- A Raise or Clear whose list is refused answers the refusal. -/
theorem exec_assert_refused {v : Bool} {r : Answer} (h : s.Ready l (if v then .raise else .clear) f)
    (hc : (s.begin l f).checkList l 1 f.body = .error r) :
    exec (if v then .raise l else .clear l) s = s.becomes (s.answered l f r) := by
  have hb : assertBody v l f.body (s.begin l f) = (s.begin l f, r) := by
    unfold assertBody
    rw [hc]
  cases v
  · exact State.run_answered h _ hb
  · exact State.run_answered h _ hb

/-- Shelve Point's answer once its point and its minutes are in their ranges, where it is refused (R64, R66). -/
theorem shelvePointBody_disabled {s : Part} {b : List Byte} (hp : field b 0 1 = p.val)
    (hm : within 1 1440 (field b 1 2) = true) (hs : s.alarm.points[p].state = .disabled) :
    shelvePointBody l b s = (s, refuse .notEnabled) := by
  unfold shelvePointBody
  rw [hp, point?_val]
  dsimp only
  rw [if_neg (by rw [hm]; nofun), hs]

theorem shelvePointBody_full {s : Part} {b : List Byte} (hp : field b 0 1 = p.val)
    (hm : within 1 1440 (field b 1 2) = true) (hd : s.alarm.points[p].state ≠ .disabled)
    (hs : s.alarm.points[p].state ≠ .shelved) (hf : Config.shelfSize ≤ s.alarm.shelf.length) :
    shelvePointBody l b s = (s, refuse .shelfFull (be 1 p.val ++ be 4 0 ++ be 1 16)) := by
  unfold shelvePointBody
  rw [hp, point?_val]
  dsimp only
  rw [if_neg (by rw [hm]; nofun)]
  split
  · next h => exact absurd h hd
  · next h => exact absurd h hs
  all_goals exact if_pos hf

theorem within_eq_true {lo hi v : Nat} (h1 : lo ≤ v) (h2 : v ≤ hi) : within lo hi v = true := by
  simp [within, h1, h2]

/-- Settles O24: each check in its place. -/
theorem listedAndSinglePointsAreCheckedFirst : Obligations.ListedAndSinglePointsAreCheckedFirst := by
  unfold Obligations.ListedAndSinglePointsAreCheckedFirst
  refine ⟨fun s l f h => ⟨fun hp => ?_, fun p hp h1 h2 => ?_, fun p hp hw h1 h2 => ?_⟩,
    fun s l v f ps b rest h hbody hps => ⟨fun hb => ?_, fun p hp h1 h2 => ?_⟩,
    fun s l f h => ⟨fun hp => ?_, fun hp hm => ?_, fun p hp h1 h2 hs => ?_, fun p hp h1 h2 hd hs hf => ?_⟩⟩
  · refine State.run_answered h acknowledgePointBody ?_
    unfold acknowledgePointBody
    rw [point?_above hp]
    rfl
  · refine State.run_answered h acknowledgePointBody ?_
    have hpend : s.alarm.points[p].pendingAck = false := Bool.eq_false_iff.mpr fun hpend =>
      ((Point.pendingAck_iff _).mp hpend).elim h1 h2
    unfold acknowledgePointBody
    rw [hp, point?_val]
    dsimp only
    rw [Part.begin_alarm, if_pos hpend]
  · refine State.run_answered h acknowledgePointBody ?_
    unfold acknowledgePointBody
    rw [hp, point?_val]
    dsimp only
    rw [Part.begin_alarm, if_neg (by rw [(Point.pendingAck_iff _).mpr hw]; nofun), if_pos ⟨h1, h2⟩, Part.begin_stateData]
    rfl
  · refine exec_assert_refused h ?_
    rw [hbody]
    refine Part.checkList_error (fun p hp => ?_) ?_
    · rw [Part.begin_sourceOpen, Part.sourceOpen_iff]; exact hps p hp
    · rw [Part.checkList, point?_above hb, Nat.add_comm]
      rfl
  · refine exec_assert_refused h ?_
    rw [hbody]
    refine Part.checkList_error (fun p hp => ?_) ?_
    · rw [Part.begin_sourceOpen, Part.sourceOpen_iff]; exact hps p hp
    · rw [Part.checkList, ← hp, point?_val]
      dsimp only
      rw [if_neg]
      rw [Part.begin_sourceOpen, Part.sourceOpen_iff]
      exact not_or.mpr ⟨h1, h2⟩
  · refine State.run_answered h shelvePointBody ?_
    unfold shelvePointBody
    rw [point?_above hp]
    rfl
  · refine State.run_answered h shelvePointBody ?_
    unfold shelvePointBody
    rw [show field f.body 0 1 = (⟨field f.body 0 1, by omega⟩ : PointId).val from rfl, point?_val]
    dsimp only
    rw [if_pos (within_eq_false.mpr (by omega))]
    rfl
  · exact State.run_answered h _ (shelvePointBody_disabled hp (within_eq_true h1 h2) (by rw [Part.begin_alarm]; exact hs))
  · exact State.run_answered h _ (shelvePointBody_full hp (within_eq_true h1 h2) (by rw [Part.begin_alarm]; exact hd)
      (by rw [Part.begin_alarm]; exact hs) (by rw [Part.begin_alarm]; exact hf))

end Sys2Proof.Machine
end


section
/-! SUPPORT. The points that come back from the shelf, and the requests that sweep the point table (R14, R20, R22, R23, R24,
R67, R68, R72). -/

namespace Sys2Proof.Machine

variable {s : State} {l : LinkId} {f : Frame} {e : Env} {a b : Alarm} {p : PointId}

/-! ## Coming back from the shelf (R14) -/

/-- A new occurrence of a point outside the active states: even its own suppressor it would not find active. -/
theorem Alarm.newOccurrence_begun_of_inactive (cause : Cause) (h : a.points[p].state.active = false) :
    Alarm.Begun e p cause a (a.newOccurrence e p cause) := by
  by_cases hs : e.config.points[p].suppressor = some p
  · have hn : a.suppressorActive e.config p = false := by
      unfold Alarm.suppressorActive
      rw [hs]
      exact h
    unfold Alarm.Begun
    rw [if_neg (by rw [hn]; nofun)]
    exact Alarm.newOccurrence_entered e p cause a hn
  · exact Alarm.newOccurrence_begun e p cause a hs

theorem Alarm.unshelve_cameBack (e : Env) (cause : Cause) (h : a.points[p].state = .shelved) :
    Alarm.CameBack e p cause (a.removeEntry p) (a.unshelve e p cause) := by
  have hs : (a.removeEntry p).points[p].state.active = false := by
    rw [Alarm.removeEntry_points, h]; rfl
  unfold Alarm.CameBack Alarm.unshelve
  rw [Alarm.removeEntry_points]
  dsimp only
  split
  · exact Alarm.newOccurrence_begun_of_inactive cause hs
  · exact Alarm.move_moved e p .idle cause _ (.inl nofun)

/-- Settles O30: each expiry and the request hand their point over to the same unshelving. -/
theorem shelvedPointsComeBack : Obligations.ShelvedPointsComeBack := by
  unfold Obligations.ShelvedPointsComeBack
  refine ⟨fun s l f h => ⟨fun p hp hs => ?_, fun p hp hs => ?_, fun hp => ?_⟩, fun s n rest hn hs ht => ?_,
    fun s p d hw ht => ?_⟩
  · refine ⟨s.alarm.unshelve (s.env (.link l)) p .unshelve, State.run_ready h unshelvePointBody ?_,
      Alarm.unshelve_cameBack _ _ hs⟩
    unfold unshelvePointBody
    rw [hp, point?_val]
    dsimp only
    rw [Part.begin_alarm, if_neg (fun hne => hne hs), Part.begin_onPoint]
  · refine State.run_answered h unshelvePointBody ?_
    unfold unshelvePointBody
    rw [hp, point?_val]
    dsimp only
    rw [Part.begin_alarm, if_pos hs]
  · refine State.run_answered h unshelvePointBody ?_
    unfold unshelvePointBody
    rw [point?_above hp]
    rfl
  · refine ⟨s.alarm.unshelve (s.env .timer) n.point .expire, ?_, Alarm.unshelve_cameBack _ _ hs⟩
    have hd : s.alarm.shelfDue = some n.point := by
      unfold Alarm.shelfDue
      rw [hn]
      exact if_pos ht
    change s.becomes (s.shelfExpired) = _
    unfold Part.shelfExpired
    rw [hd]
    rfl
  · change execChatterWindowExpiry p.val s = _
    unfold execChatterWindowExpiry
    rw [point?_val]
    change s.becomes (s.chatterExpired p) = _
    unfold Part.chatterExpired
    rw [if_pos]
    · rfl
    · rw [hw]
      simpa [Timer.due] using ht

/-! ## Chains, point by point -/

theorem mem_allPoints (p : PointId) : p ∈ allPoints := List.mem_finRange p

theorem mem_pointsWith (P : PointId → Bool) (p : PointId) : p ∈ allPoints.filter P ↔ P p = true := by
  rw [List.mem_filter, and_iff_right (mem_allPoints p)]

/-- A chain passes each of its points. -/
theorem Chain.split {R : PointId → Alarm → Alarm → Prop} {ps : List PointId} (h : Chain R ps a b) (hp : p ∈ ps) :
    ∃ qs rs m n, ps = qs ++ p :: rs ∧ Chain R qs a m ∧ R p m n ∧ Chain R rs n b := by
  induction ps generalizing a with
  | nil => cases hp
  | cons q ps ih =>
    obtain ⟨m, hm, hc⟩ := h
    rcases List.mem_cons.mp hp with rfl | hp
    · exact ⟨[], ps, a, m, rfl, rfl, hm, hc⟩
    · obtain ⟨qs, rs, m', n, rfl, h1, h2, h3⟩ := ih hc hp
      exact ⟨q :: qs, rs, m', n, rfl, ⟨m, hm, h1⟩, h2, h3⟩

/-- In a chain that takes no point twice, whose changes leave others that are not SUPPRESSED alone, a point's own change
decides what it ends as. -/
theorem Chain.own {R : PointId → Alarm → Alarm → Prop} {ps : List PointId}
    (hR : ∀ q p a b, R p a b → q ≠ p → a.points[q].state ≠ .suppressed → b.points[q] = a.points[q])
    (hS : ∀ p a b, R p a b → b.points[p].state ≠ .suppressed) (h : Chain R ps a b) (hn : ps.Nodup) (hp : p ∈ ps)
    (hs : a.points[p].state ≠ .suppressed) :
    ∃ m n, R p m n ∧ m.points[p] = a.points[p] ∧ b.points[p] = n.points[p] := by
  obtain ⟨qs, rs, m, n, rfl, h1, h2, h3⟩ := h.split hp
  obtain ⟨-, hn2, hd⟩ := List.nodup_append.mp hn
  obtain ⟨hrs, -⟩ := List.nodup_cons.mp hn2
  have hqs : p ∉ qs := fun hq => hd p hq p List.mem_cons_self rfl
  exact ⟨m, n, h2, h1.kept (hR p) hqs hs, h3.kept (hR p) hrs (hS p m n h2)⟩

/-- What every change of a chain leaves alone, the chain does. -/
theorem Chain.same {β : Type} {F : Alarm → β} {R : PointId → Alarm → Alarm → Prop} {ps : List PointId}
    (hR : ∀ p a b, R p a b → F b = F a) (h : Chain R ps a b) : F b = F a := by
  induction ps generalizing a with
  | nil => cases h; rfl
  | cons p ps ih =>
    obtain ⟨m, hm, hc⟩ := h
    exact (ih hc).trans (hR p a m hm)

/-- What a panel-wide action makes of the part whose link has begun its frame. -/
theorem Part.begin_action (g : Env → Alarm → Alarm × Nat) (s : Part) (l : LinkId) (f : Frame) (bs : List Byte) :
    actionBody g l bs (s.begin l f) = ((s.begin l f).withAlarm (g (s.env (.link l)) s.alarm).1,
      okAnswer (be 1 (g (s.env (.link l)) s.alarm).2)) := by
  unfold actionBody
  rw [Part.begin_env, Part.begin_alarm]
  rfl

/-! ## Acknowledge All (R20) -/

theorem Alarm.Acknowledged.shelf (h : Alarm.Acknowledged e p a b) : b.shelf = a.shelf := by
  obtain ⟨t, -, hm⟩ := h
  exact hm.shelf

theorem Alarm.Acknowledged.chatter (h : Alarm.Acknowledged e p a b) : b.chatter = a.chatter := by
  obtain ⟨t, -, hm⟩ := h
  exact hm.chatter

/-- An acknowledged point is not SUPPRESSED. -/
theorem Alarm.Acknowledged.unsuppressed (h : Alarm.Acknowledged e p a b) : b.points[p].state ≠ .suppressed := by
  obtain ⟨t, ht, hm⟩ := h
  rw [hm.state]
  rcases ht with ⟨-, -, rfl⟩ | ⟨-, -, rfl⟩ | ⟨-, -, rfl⟩
  · split <;> nofun
  · nofun
  · nofun

/-- With no point SUPPRESSED, nothing is released when a point leaves the active states (R54). -/
theorem Alarm.freedBy_nil (c : Configuration) (p : PointId) (t : PointState)
    (h : ∀ q : PointId, a.points[q].state ≠ .suppressed) : a.freedBy c p t = [] :=
  List.filter_eq_nil_iff.mpr fun q _ => by simp [Alarm.frees, h q, -Fin.getElem_fin]

/-- With no point SUPPRESSED, acknowledgements one after the other append one record each. -/
theorem Chain.acknowledged_journal {ps : List PointId} (h : Chain (Alarm.Acknowledged e) ps a b) (hn : ps.Nodup)
    (hs : ∀ q : PointId, a.points[q].state ≠ .suppressed) :
    b.journal = a.journal.appendAll (ps.map fun p => pointRecord e p a.points[p].state b.points[p] .ack) := by
  induction ps generalizing a with
  | nil => cases h; rfl
  | cons p ps ih =>
    obtain ⟨m, hm, hc⟩ := h
    obtain ⟨hp, hn⟩ := List.nodup_cons.mp hn
    have hkept (q : PointId) (hq : q ≠ p) : m.points[q] = a.points[q] := hm.kept hq (hs q)
    have hms (q : PointId) : m.points[q].state ≠ .suppressed := by
      by_cases hq : q = p
      · rw [hq]; exact hm.unsuppressed
      · rw [hkept q hq]; exact hs q
    have hbp : b.points[p] = m.points[p] := hc.kept (fun _ _ _ h => h.kept) hp (hms p)
    have hmj : m.journal = a.journal.append (pointRecord e p a.points[p].state m.points[p] .ack) := by
      obtain ⟨t, -, hmv⟩ := hm
      rw [hmv.journal, Alarm.freedBy_nil _ _ _ hs]
      rfl
    have hrest : (ps.map fun q => pointRecord e q m.points[q].state b.points[q] .ack) =
        ps.map fun q => pointRecord e q a.points[q].state b.points[q] .ack :=
      List.map_congr_left fun q hq => by rw [hkept q fun hqp : q = p => hp (hqp ▸ hq)]
    rw [ih hc hn hms, hmj, hrest, List.map_cons, Journal.appendAll_cons, hbp]

/-- What an acknowledgement makes of the point, from what it found (R9, R10). -/
theorem Alarm.Acknowledged.point (h : Alarm.Acknowledged e p a b) :
    b.points[p].occurrence = a.points[p].occurrence ∧
    (a.points[p].state = .alerting → e.config.points[p].sequence = .hold →
      b.points[p].state = if a.points[p].abnormal then .standing else .awaitReset) ∧
    (a.points[p].state = .alerting → e.config.points[p].sequence = .follow → b.points[p].state = .standing) ∧
    (a.points[p].state = .returned → e.config.points[p].sequence = .follow → b.points[p].state = .idle) := by
  obtain ⟨t, ht, hm⟩ := h
  rw [hm.state]
  refine ⟨hm.occurrence, fun hs hq => ?_, fun hs hq => ?_, fun hs hq => ?_⟩ <;>
    rcases ht with ⟨hq', hs', ht⟩ | ⟨hq', hs', ht⟩ | ⟨hq', hs', ht⟩
  · exact ht
  · exact absurd (hq.symm.trans hq') nofun
  · exact absurd (hs.symm.trans hs') nofun
  · exact absurd (hq.symm.trans hq') nofun
  · exact ht
  · exact absurd (hs.symm.trans hs') nofun
  · exact absurd (hs.symm.trans hs') nofun
  · exact absurd (hs.symm.trans hs') nofun
  · exact ht

/-- Settles O25: the sweep as a chain of acknowledgements, read off point by point. -/
theorem acknowledgeAllSweepsThePoints : Obligations.AcknowledgeAllSweepsThePoints := by
  unfold Obligations.AcknowledgeAllSweepsThePoints
  intro s l f h hlaw
  obtain ⟨ps, hlen, hsorted, hchain, hall, honly⟩ := Alarm.ackAll_chain (e := s.env (.link l)) hlaw
  have hn : ps.Nodup := hsorted.imp fun h => ne_of_lt h
  have hwait (p : PointId) := Point.pendingAck_iff s.alarm.points[p]
  refine ⟨(s.alarm.ackAll (s.env (.link l))).1, ps, ?_, hsorted, hchain, fun p hp => hall p ((hwait p).mpr hp),
    fun p hp => ?_, fun p hp => ?_, fun p hp hs => ?_, fun hs => ⟨?_, hchain.acknowledged_journal hn hs⟩,
    hchain.same (F := Alarm.shelf) fun _ _ _ => Alarm.Acknowledged.shelf,
    hchain.same (F := Alarm.chatter) fun _ _ _ => Alarm.Acknowledged.chatter⟩
  · rw [← hlen]
    exact State.run_ready h _ (Part.begin_action ..)
  · rcases honly p hp with hw | hs
    · exact ((hwait p).mp hw).imp id .inl
    · exact .inr (.inr hs)
  · have hns : s.alarm.points[p].state ≠ .suppressed := by
      rcases (hwait p).mp hp with hw | hw <;> rw [hw] <;> nofun
    obtain ⟨m, n, hack, hm, hb⟩ := hchain.own (fun _ _ _ _ h => h.kept) (fun _ _ _ => Alarm.Acknowledged.unsuppressed) hn
      (hall p hp) hns
    rw [hb, ← hm]
    exact hack.point
  · refine hchain.kept (fun _ _ _ h => h.kept) (fun hmem => ?_) hs
    rcases honly p hmem with hw | hw
    · rw [hp] at hw; cases hw
    · exact hs hw
  · refine hsorted.eq_of_mem_iff ((List.pairwise_lt_finRange 96).sublist List.filter_sublist) fun p => ?_
    rw [mem_pointsWith, decide_eq_true_iff, ← hwait p]
    exact ⟨fun hp => (honly p hp).resolve_right (hs p), hall p⟩

/-! ## Silence (R22) -/

theorem Alarm.hush_claimLevel (e : Env) (p q : PointId) (a : Alarm) : (a.hush e p).sounder.claimLevel q =
    if q = p then none else a.sounder.claimLevel q := by
  unfold Alarm.hush Alarm.passClaim
  simp only [Sounder.passClaim_claimLevel, Alarm.setPoint_points, if_true]
  have hn : claimOf e.config.points[p] { a.points[p] with hushed := true } = none := if_neg fun h => absurd h.2 nofun
  rw [hn]
  rfl

/-- Points hushed one after the other. -/
theorem Alarm.foldl_hush_points (e : Env) (ps : List PointId) (q : PointId) (a : Alarm) :
    (ps.foldl (fun a p => a.hush e p) a).points[q] =
      if q ∈ ps then { a.points[q] with hushed := true } else a.points[q] := by
  induction ps generalizing a with
  | nil => rfl
  | cons p ps ih =>
    rw [List.foldl_cons, ih, Alarm.hush_points]
    by_cases hqp : q = p
    · subst hqp
      simp [-Fin.getElem_fin]
    · simp [hqp, -Fin.getElem_fin]

theorem Alarm.foldl_hush_claimLevel (e : Env) (ps : List PointId) (q : PointId) (a : Alarm) :
    (ps.foldl (fun a p => a.hush e p) a).sounder.claimLevel q = if q ∈ ps then none else a.sounder.claimLevel q := by
  induction ps generalizing a with
  | nil => rfl
  | cons p ps ih =>
    rw [List.foldl_cons, ih, Alarm.hush_claimLevel]
    by_cases hqp : q = p <;> simp [hqp]

/-- Hushing touches neither groups, shelf table, chatter records nor the Journal. -/
theorem Alarm.foldl_hush_frame (e : Env) (ps : List PointId) (a : Alarm) :
    let b : Alarm := ps.foldl (fun a p => a.hush e p) a
    b.groups = a.groups ∧ b.shelf = a.shelf ∧ b.chatter = a.chatter ∧ b.journal = a.journal :=
  foldl_keeps (f := fun a p => a.hush e p) (P := fun b : Alarm => b.groups = a.groups ∧ b.shelf = a.shelf ∧ b.chatter = a.chatter ∧ b.journal = a.journal)
    (fun _ _ h => h) ps ⟨rfl, rfl, rfl, rfl⟩

/-- Settles O26: the audible points are hushed, and the lamps, which follow the patterns, stay. -/
theorem silenceHushesEveryAudiblePoint : Obligations.SilenceHushesEveryAudiblePoint := by
  unfold Obligations.SilenceHushesEveryAudiblePoint
  intro s l f h
  let ps := allPoints.filter fun p => s.alarm.points[p].audible
  have hlen : ps.length = allPoints.countP fun p => s.alarm.points[p].audible := List.countP_eq_length_filter.symm
  have hmem (p : PointId) : p ∈ ps ↔ s.alarm.points[p].audible = true := mem_pointsWith ..
  have haud (p : PointId) : s.alarm.points[p].audible = true ↔
      s.alarm.points[p].state = .alerting ∧ s.alarm.points[p].hushed = false := by
    simp [Point.audible, -Fin.getElem_fin]
  obtain ⟨hg, hsh, hch, hj⟩ := Alarm.foldl_hush_frame (s.env (.link l)) ps s.alarm
  have hpts := Alarm.foldl_hush_points (s.env (.link l)) ps (a := s.alarm)
  have hcl := Alarm.foldl_hush_claimLevel (s.env (.link l)) ps (a := s.alarm)
  refine ⟨(s.alarm.silence (s.env (.link l))).1, ?_, fun p => ?_, fun p hp => ?_, fun p hp => ?_, ?_, hg, hsh, hch,
    fun hlamp => ?_⟩
  · rw [← hlen]
    exact State.run_ready h _ (Part.begin_action ..)
  · refine (hpts p).trans (if_congr ?_ rfl rfl)
    rw [hmem, haud]
  · exact (hcl p).trans (if_pos ((hmem p).mpr hp))
  · exact (hcl p).trans (if_neg fun hm => by rw [(hmem p).mp hm] at hp; cases hp)
  · rw [← hlen]
    exact congrArg (fun j : Journal => j.append _) hj
  · have hl := Alarm.silence_keeps (e := s.env (.link l)) (Alarm.LampLaw.closed ..) hlamp
    refine Vector.ext fun i hi => ?_
    have h1 := hl ⟨i, hi⟩
    have h2 := hlamp ⟨i, hi⟩
    refine h1.trans (Eq.trans ?_ h2.symm)
    rw [show (s.alarm.silence (s.env (.link l))).1.points[(⟨i, hi⟩ : PointId)] = _ from hpts ⟨i, hi⟩]
    split <;> rfl

/-! ## Reset All and Reset Point (R23, R24) -/

/-- Settles O27: each reset is the move to IDLE. -/
theorem resetRequestsClearWaitingPoints : Obligations.ResetRequestsClearWaitingPoints := by
  unfold Obligations.ResetRequestsClearWaitingPoints
  refine ⟨fun s l f h => ?_, fun s l f h => ⟨fun p hp hs => ?_, fun p hp hs => ?_, fun hp => ?_⟩⟩
  · obtain ⟨hlen, hchain⟩ := Alarm.resetAll_chain (s.env (.link l)) s.alarm
    have hmem (p : PointId) : p ∈ (allPoints.filter fun p => decide (s.alarm.points[p].state = .awaitReset)) ↔
        s.alarm.points[p].state = .awaitReset := by
      rw [mem_pointsWith, decide_eq_true_iff]
    refine ⟨(s.alarm.resetAll (s.env (.link l))).1, ?_, hchain, fun p hp => ?_, fun p hp hs => ?_,
      hchain.same (F := Alarm.shelf) fun _ _ _ h => h.shelf, hchain.same (F := Alarm.chatter) fun _ _ _ h => h.chatter⟩
    · rw [List.countP_eq_length_filter, ← hlen]
      exact State.run_ready h _ (Part.begin_action ..)
    · obtain ⟨m, n, hmv, hm, hb⟩ := hchain.own (fun _ _ _ _ h => h.kept) (fun _ _ _ h => by rw [h.state]; nofun)
        ((List.nodup_finRange 96).filter _) ((hmem p).mpr hp) (by rw [hp]; nofun)
      rw [hb, hmv.state, hmv.mark, hmv.occurrence, hm, hp]
      exact ⟨rfl, Bool.and_false _, rfl⟩
    · exact hchain.kept (fun _ _ _ h => h.kept) (fun hm => hp ((hmem p).mp hm)) hs
  · have hm := Alarm.move_moved (s.env (.link l)) p .idle .rst s.alarm (.inl nofun)
    refine ⟨s.alarm.rst (s.env (.link l)) p, State.run_ready h resetPointBody ?_, hm⟩
    unfold resetPointBody
    rw [hp, point?_val]
    dsimp only
    rw [Part.begin_alarm, if_neg (fun hne => hne hs), Part.begin_onPoint, Alarm.rst, hm.state, hm.occurrence]
    rfl
  · refine State.run_answered h resetPointBody ?_
    unfold resetPointBody
    rw [hp, point?_val]
    dsimp only
    rw [Part.begin_alarm, if_pos hs]
  · refine State.run_answered h resetPointBody ?_
    unfold resetPointBody
    rw [point?_above hp]
    rfl

end Sys2Proof.Machine
end


section
/-! SUPPORT. Restart WARM: the session step, and the entry passes over points that are IDLE (R28, R60, R61, R160, R161). -/

namespace Sys2Proof.Machine

variable {s : State} {l : LinkId} {f : Frame} {e : Env} {a b : Alarm} {p : PointId} {cause : Cause}

/-! ## Occurrences begun by points outside the active states -/

/-- What begins when a point outside the active states begins a new occurrence: no other point changes, and one record of the
event or of the suppression is appended (R6, R7, R53). -/
structure Alarm.BegunAlone (e : Env) (p : PointId) (cause : Cause) (a b : Alarm) : Prop where
  others : ∀ q : PointId, q ≠ p → b.points[q] = a.points[q]
  occurrence : b.points[p].occurrence = occurrenceAfter a.points[p].occurrence
  state : b.points[p].state = .suppressed ∨ b.points[p].state = e.config.points[p].sequence.entryState
  journal : ∃ r : RecordBody, b.journal = a.journal.append r ∧ r.kind = .point ∧ r.origin = e.origin ∧
    (r.cause = some cause ∨ r.cause = some .suppress)

theorem Alarm.Begun.alone (h : Alarm.Begun e p cause a b) (hp : a.points[p].state.active = false) :
    Alarm.BegunAlone e p cause a b := by
  unfold Alarm.Begun at h
  split at h
  · have hpp : (a.setPoint p { a.points[p] with occurrence := occurrenceAfter a.points[p].occurrence }).points[p] =
        { a.points[p] with occurrence := occurrenceAfter a.points[p].occurrence } := by
      rw [Alarm.setPoint_points, if_pos rfl]
    have hfree (q : PointId) : (a.setPoint p
        { a.points[p] with occurrence := occurrenceAfter a.points[p].occurrence }).frees e.config p .suppressed q = false := by
      unfold Alarm.frees
      rw [hpp, hp]
      rfl
    refine ⟨fun q hq => ?_, ?_, .inl h.state, pointRecord e p a.points[p].state b.points[p] .suppress, ?_, rfl, rfl,
      .inr rfl⟩
    · rw [h.others q hq (hfree q), Alarm.setPoint_points, if_neg hq]
    · rw [h.occurrence, hpp]
    · have hnil : (a.setPoint p
          { a.points[p] with occurrence := occurrenceAfter a.points[p].occurrence }).freedBy e.config p .suppressed = [] :=
        List.filter_eq_nil_iff.mpr fun q _ => by rw [hfree, Bool.and_false]; exact Bool.false_ne_true
      rw [h.journal, hnil, hpp]
      rfl
  · refine ⟨h.others, ?_, .inr ?_, _, h.journal, rfl, rfl, .inl rfl⟩
    · rw [h.point]
    · rw [h.point]; rfl

theorem Alarm.Begun.shelf (h : Alarm.Begun e p cause a b) : b.shelf = a.shelf := by
  unfold Alarm.Begun at h
  split at h
  · exact h.shelf
  · exact h.shelf

theorem Alarm.Begun.chatter (h : Alarm.Begun e p cause a b) : b.chatter = a.chatter := by
  unfold Alarm.Begun at h
  split at h
  · exact h.chatter
  · exact h.chatter

/-- From `a` to `b` each point of `ps` has begun a new occurrence from outside the active states, and no other changed. -/
structure Alarm.AllBegun (e : Env) (cause : Cause) (ps : List PointId) (a b : Alarm) : Prop where
  others : ∀ q : PointId, q ∉ ps → b.points[q] = a.points[q]
  occurrence : ∀ p ∈ ps, b.points[p].occurrence = occurrenceAfter a.points[p].occurrence
  state : ∀ p ∈ ps, b.points[p].state = .suppressed ∨ b.points[p].state = e.config.points[p].sequence.entryState
  journal : ∃ bs : List RecordBody, b.journal = a.journal.appendAll bs ∧ ∀ r ∈ bs, r.kind = .point ∧
    r.origin = e.origin ∧ (r.cause = some cause ∨ r.cause = some .suppress)

theorem Chain.allBegun {ps : List PointId} (h : Chain (fun p => Alarm.Begun e p cause) ps a b) (hn : ps.Nodup)
    (hp : ∀ p ∈ ps, a.points[p].state.active = false) : Alarm.AllBegun e cause ps a b := by
  induction ps generalizing a with
  | nil =>
    cases h
    exact ⟨fun _ _ => rfl, fun _ h => absurd h List.not_mem_nil, fun _ h => absurd h List.not_mem_nil, [], rfl,
      fun _ h => absurd h List.not_mem_nil⟩
  | cons p ps ih =>
    obtain ⟨m, hm, hc⟩ := h
    obtain ⟨hpn, hn⟩ := List.nodup_cons.mp hn
    have h1 := hm.alone (hp p List.mem_cons_self)
    have hkept (q : PointId) (hq : q ∈ ps) : m.points[q] = a.points[q] := h1.others q fun hqp => hpn (hqp ▸ hq)
    have h2 := ih hc hn fun q hq => by rw [hkept q hq]; exact hp q (List.mem_cons_of_mem _ hq)
    have hbp : b.points[p] = m.points[p] := h2.others p hpn
    obtain ⟨r, hr, hkind⟩ := h1.journal
    obtain ⟨bs, hbs, hkinds⟩ := h2.journal
    refine ⟨fun q hq => ?_, fun q hq => ?_, fun q hq => ?_, r :: bs, ?_, fun x hx => ?_⟩
    · obtain ⟨hqp, hqs⟩ := not_or.mp (mt List.mem_cons.mpr hq)
      rw [h2.others q hqs, h1.others q hqp]
    · rcases List.mem_cons.mp hq with rfl | hq
      · rw [hbp, h1.occurrence]
      · rw [h2.occurrence q hq, hkept q hq]
    · rcases List.mem_cons.mp hq with rfl | hq
      · rw [hbp]; exact h1.state
      · exact h2.state q hq
    · rw [hbs, hr, Journal.appendAll_cons]
    · rcases List.mem_cons.mp hx with rfl | hx
      · exact hkind
      · exact hkinds x hx

theorem Configuration.mem_passOrder (c : Configuration) (ps : List PointId) (p : PointId) :
    p ∈ c.passOrder ps ↔ p ∈ ps := by
  unfold Configuration.passOrder
  rw [List.mem_append, List.mem_filter, List.mem_filter]
  cases c.points[p].suppressor <;> simp

theorem Configuration.passOrder_nodup (c : Configuration) {ps : List PointId} (h : ps.Nodup) : (c.passOrder ps).Nodup := by
  refine List.nodup_append.mpr ⟨h.filter _, h.filter _, fun p hp q hq => ?_⟩
  rintro rfl
  have h1 := (List.mem_filter.mp hp).2
  have h2 := (List.mem_filter.mp hq).2
  cases hs : c.points[p].suppressor <;> rw [hs] at h1 h2 <;> [cases h2; cases h1]

/-! ## The session step (R160) -/

/-- What losing the session appends. -/
def Manager.lost (l : LinkId) (m : Manager) : List RecordBody :=
  if m.holder = none then [] else [{ kind := .sessionLost, origin := .link l, detail := some m.sessionId }]

/-- Whoever held it, afterwards no link holds a session. -/
theorem Part.loseSession_eq {c : Part} (l : LinkId) (h1 : c.manager.holder = none → c.manager.staging = none)
    (h2 : c.manager.holder = none → c.manager.sessionId = 0) : c.loseSession l = { c with
      manager := { c.manager with holder := none, sessionId := 0, staging := none }
      alarm := { c.alarm with journal := c.alarm.journal.appendAll (c.manager.lost l) } } := by
  unfold Part.loseSession Manager.lost
  split
  · next hn =>
    have hm : { c.manager with holder := none, sessionId := 0, staging := none } = c.manager := by
      rw [← hn, ← h1 hn, ← h2 hn]
    rw [hm, if_pos hn]
    rfl
  · next k hk =>
    rw [if_neg (by rw [hk]; nofun)]
    rfl

/-- A check abandoned leaves everything but the check and the holder's link. -/
theorem Part.StopsCheck.frame {t u : Part} (h : Part.StopsCheck l t u) : u.manager = { t.manager with check := none } ∧
    u.alarm = t.alarm ∧ u.active = t.active ∧ u.panel = t.panel := by
  rcases h with ⟨hc, rfl⟩ | ⟨k, g, d, -, -, -, -, rfl⟩
  · exact ⟨by rw [← hc], rfl, rfl, rfl⟩
  · exact ⟨rfl, Part.setLink_alarm .., Part.setLink_active .., Part.setLink_panel ..⟩

/-! ## The rebuild (R28, R61, R77, R101) -/

theorem Point.warm_pattern (d : Point) : d.warm.pattern = .off := by
  unfold Point.pattern
  rcases d.warm_state with ⟨h, -⟩ | ⟨h, -⟩ <;> rw [h]

theorem Alarm.abnormalEnabled_eq (a : Alarm) : a.abnormalEnabled = allPoints.filter fun p =>
    decide (a.points[p].state ≠ .disabled ∧ a.points[p].abnormal = true) :=
  List.filter_congr fun p _ => by rw [Bool.decide_and, Bool.decide_eq_true]

theorem Alarm.mem_abnormalEnabled (a : Alarm) (p : PointId) :
    p ∈ a.abnormalEnabled ↔ a.points[p].state ≠ .disabled ∧ a.points[p].abnormal = true := by
  rw [Alarm.abnormalEnabled_eq, mem_pointsWith, decide_eq_true_iff]

/-- The entry passes of a warm restart, as a chain. -/
theorem Alarm.warmPassed_chain (e : Env) (a : Alarm) (h : ∀ p : PointId, e.config.points[p].suppressor ≠ some p) :
    Chain (fun p => Alarm.Begun e.warm p .restart) (e.config.passOrder a.abnormalEnabled) a.warmClear (a.warmPassed e) :=
  Alarm.passes_chain e.warm .restart _ _ h

theorem Alarm.warmPassed_begun (e : Env) (a : Alarm) (h : ∀ p : PointId, e.config.points[p].suppressor ≠ some p) :
    Alarm.AllBegun e.warm .restart (e.config.passOrder a.abnormalEnabled) a.warmClear (a.warmPassed e) :=
  (a.warmPassed_chain e h).allBegun (Configuration.passOrder_nodup _ ((List.nodup_finRange 96).filter _))
    fun p _ => a.warmClear_inactive p

theorem Alarm.warmPassed_elapsed (e : Env) (a : Alarm) : (a.warmPassed e).journal.elapsed = a.journal.elapsed :=
  (a.warmPassed_turns e).keeps (P := fun b => b.journal.elapsed = a.journal.elapsed)
    (fun _ _ h hb => h.elapsed.trans hb) rfl

/-! ### What a warm restart leaves -/

section
variable (hself : ∀ p : PointId, e.config.points[p].suppressor ≠ some p)
include hself

theorem Alarm.warmRestart_shelf : (a.warmRestart e).shelf = [] :=
  (a.warmPassed_chain e hself).same (F := Alarm.shelf) fun _ _ _ => Alarm.Begun.shelf

theorem Alarm.warmRestart_chatter (p : PointId) : (a.warmRestart e).chatter[p] = ⟨0, none⟩ := by
  have h := (a.warmPassed_chain e hself).same (F := Alarm.chatter) fun _ _ _ => Alarm.Begun.chatter
  exact (congrArg (fun v : Vector Chatter 96 => v[p]) h).trans (getElem_replicate_fin ..)

/-- The points without an entry pass are those that the rebuild made IDLE, or left DISABLED. -/
theorem Alarm.warmRestart_others (h : ¬(a.points[p].state ≠ .disabled ∧ a.points[p].abnormal = true)) :
    (a.warmRestart e).points[p] = a.points[p].warm := by
  have hnot : p ∉ e.config.passOrder a.abnormalEnabled := by
    rwa [Configuration.mem_passOrder, Alarm.mem_abnormalEnabled]
  exact ((a.warmPassed_begun e hself).others p hnot).trans (a.warmClear_points p)

theorem Alarm.warmRestart_entered (hd : a.points[p].state ≠ .disabled) (ha : a.points[p].abnormal = true) :
    (a.warmRestart e).points[p].occurrence = occurrenceAfter a.points[p].occurrence ∧
      ((a.warmRestart e).points[p].state = .suppressed ∨
        (a.warmRestart e).points[p].state = e.config.points[p].sequence.entryState) := by
  have hmem : p ∈ e.config.passOrder a.abnormalEnabled := by
    rw [Configuration.mem_passOrder, Alarm.mem_abnormalEnabled]
    exact ⟨hd, ha⟩
  have hall := a.warmPassed_begun e hself
  have hocc := hall.occurrence p hmem
  rw [a.warmClear_points p, Point.warm_occurrence] at hocc
  exact ⟨hocc, hall.state p hmem⟩

end

/-- The alarms of a warm restart before the rebuild. -/
abbrev Part.warmStart (l : LinkId) (t : Part) : Alarm :=
  { t.alarm with journal := t.alarm.journal.append { kind := .startWarm, origin := .link l } }

theorem Part.warm_alarm (l : LinkId) (t : Part) : (t.warm l).alarm = (t.warmStart l).warmRestart (t.env .part) := rfl

/-! ## The request -/

/-- What a warm restart's requests read and append before the rebuild. -/
theorem restartWarmBody_eq {t : Part} {bs : List Byte} (hf : field bs 0 1 = 0) : restartWarmBody l bs t =
    ((t.endForRestart l).warm l, some (okAnswer (be 4 (t.endForRestart l).alarm.journal.nextSeq))) := by
  unfold restartWarmBody
  exact if_neg fun hne => hne hf

theorem warmBodies_of_zero {bs : List Byte} (hf : field bs 0 1 = 0) : warmBodies bs = true := by
  refine decide_eq_true ?_
  rintro rfl
  cases hf

/-- The row of Restart WARM on a frame that passes the common checks and names WARM. -/
theorem exec_restartWarm (h : s.Ready l .restart f) (hf : field f.body 0 1 = 0) :
    exec (.restartWarm l) s = s.becomes ((((s.begin l f).endForRestart l).warm l).conclude l f
      (okAnswer (be 4 ((s.begin l f).endForRestart l).alarm.journal.nextSeq))) := by
  change s.becomes (s.execute l .restart warmBodies restartWarmBody) = _
  rw [Part.execute_ready _ h (warmBodies_of_zero hf), restartWarmBody_eq hf]

theorem Part.SessionLaw.no_staging {t : Part} (h : t.SessionLaw) (hn : t.manager.holder = none) :
    t.manager.staging = none := by
  have hst := h.staging
  rw [hn] at hst
  exact Option.isNone_iff_eq_none.mp (by rw [← Option.not_isSome, hst]; rfl)

/-- The session step of a Restart: the check ends, and no link holds a session (R160). -/
theorem Part.StopsCheck.endForRestart {t u : Part} (h : Part.StopsCheck l t u)
    (h1 : t.manager.holder = none → t.manager.staging = none) (h2 : t.manager.holder = none → t.manager.sessionId = 0) :
    t.endForRestart l = { u with
      manager := { t.manager with check := none, holder := none, sessionId := 0, staging := none }
      alarm := { t.alarm with journal := t.alarm.journal.appendAll (t.manager.lost l) } } := by
  obtain ⟨hm, ha, -, -⟩ := h.frame
  unfold Part.endForRestart
  rw [h.abandonCheck, Part.loseSession_eq l (by rw [hm]; exact h1) (by rw [hm]; exact h2), hm, ha]
  rfl

/-- Settles O49: the session step, then the cleared blocks, then the entry passes as a chain from IDLE. -/
theorem restartWarmRebuildsFromTheConditions : Obligations.RestartWarmRebuildsFromTheConditions := by
  unfold Obligations.RestartWarmRebuildsFromTheConditions
  intro s l f c h hlaw hf hself hc lost e now idle
  obtain ⟨-, -, hactive, hpanel⟩ := hc.frame
  rw [Part.begin_active] at hactive
  rw [Part.begin_panel] at hpanel
  have hend := hc.endForRestart (by rw [Part.begin_manager]; exact hlaw.no_staging)
    (by rw [Part.begin_manager]; exact hlaw.id.mpr)
  rw [Part.begin_manager, Part.begin_alarm] at hend
  rw [exec_restartWarm h hf]
  generalize (s.begin l f).endForRestart l = u at hend
  have halarm : u.alarm = { s.alarm with journal := s.alarm.journal.appendAll lost } := by rw [hend]; rfl
  have henv : u.env .part = s.env .part := by
    unfold Part.env
    rw [hend, ← hactive, ← hpanel]
  have hstart : u.warmStart l = { s.alarm with
      journal := s.alarm.journal.appendAll (lost ++ [{ kind := .startWarm, origin := .link l }]) } := by
    unfold Part.warmStart
    rw [halarm, Journal.appendAll_append]
    rfl
  have hwarm := u.warm_alarm l
  rw [hstart, henv] at hwarm
  generalize hs1 : ({ s.alarm with
    journal := s.alarm.journal.appendAll (lost ++ [{ kind := .startWarm, origin := .link l }]) } : Alarm) = a1 at hwarm
  have hpoints : a1.points = s.alarm.points := by rw [← hs1]
  have hrest : a1.journal = s.alarm.journal.appendAll (lost ++ [{ kind := .startWarm, origin := .link l }]) := by
    rw [← hs1]
  obtain ⟨bs, hbs, hkinds⟩ := (a1.warmPassed_begun (s.env .part) hself).journal
  refine ⟨u.warm l, bs, ?_, ?_, hkinds, ?_, ?_, fun p => ?_, fun p hd => ?_, fun p hd hn => ?_, fun p hd hn => ?_,
    ⟨a1.warmClear, a1.warmPassed (s.env .part), fun p => ?_, fun p => ?_, fun g => ?_,
      rfl, fun p => getElem_replicate_fin .., ?_, ?_, ?_, ?_⟩, ?_⟩
  · rw [halarm]
  · rw [hwarm]
    refine hbs.trans ?_
    change a1.journal.appendAll bs = _
    rw [hrest, ← Journal.appendAll_append, List.append_assoc]
    rfl
  · rw [hend]; rfl
  · rw [hwarm]
    exact Alarm.warmRestart_shelf hself
  · rw [hwarm]
    exact Alarm.warmRestart_chatter hself p
  · rw [hwarm, Alarm.warmRestart_others hself (by rw [hpoints]; exact fun h => h.1 hd), hpoints]
    exact if_pos hd
  · rw [hwarm, Alarm.warmRestart_others hself (by rw [hpoints]; exact fun h => Bool.false_ne_true (hn.symm.trans h.2)),
      hpoints]
    exact if_neg hd
  · rw [hwarm]
    rw [← hpoints] at hd hn ⊢
    exact Alarm.warmRestart_entered hself hd hn
  · rw [a1.warmClear_points p, hpoints]
    rfl
  · exact (Vector.getElem_map ..).trans (Point.warm_pattern _)
  · rw [← hs1]
    exact Vector.getElem_map ..
  · rw [← hs1]; rfl
  · exact hrest
  · rw [← hpoints, ← a1.abnormalEnabled_eq]
    exact a1.warmPassed_chain (s.env .part) hself
  · rw [hwarm, Alarm.warmRestart_eq, Alarm.warmPassed_elapsed, hrest, Journal.appendAll_elapsed]
    rfl
  · rw [← hpanel, hend]
    rfl

end Sys2Proof.Machine
end


section
/-! SUPPORT. A commit apply on the alarms, read off point by point and record by record (R27, R57 to R60, R76, R100). -/

namespace Sys2Proof.Machine

variable {e : Env} {old : Configuration} {a b : Alarm} {p : PointId}

/-! ## Records taken -/

/-- From `j` to `k` the Journal took some records, each such as `P` says. -/
def Journal.Grown (P : RecordBody → Prop) (j k : Journal) : Prop := ∃ bs, k = j.appendAll bs ∧ ∀ r ∈ bs, P r

theorem Journal.Grown.trans {P : RecordBody → Prop} {i j k : Journal} (h1 : Journal.Grown P i j) (h2 : Journal.Grown P j k) :
    Journal.Grown P i k := by
  obtain ⟨bs, rfl, hb⟩ := h1
  obtain ⟨cs, rfl, hc⟩ := h2
  exact ⟨bs ++ cs, (Journal.appendAll_append ..).symm, fun r hr => (List.mem_append.mp hr).elim (hb r) (hc r)⟩

theorem Journal.Grown.refl {P : RecordBody → Prop} (j : Journal) : Journal.Grown P j j :=
  ⟨[], rfl, fun _ h => absurd h List.not_mem_nil⟩

theorem Journal.Grown.one {P : RecordBody → Prop} {r : RecordBody} (j : Journal) (h : P r) : Journal.Grown P j (j.append r) :=
  ⟨[r], rfl, fun _ hx => List.mem_singleton.mp hx ▸ h⟩

/-- What the Journal takes at each change of a chain, it takes in the whole. -/
theorem Chain.grown {P : RecordBody → Prop} {R : PointId → Alarm → Alarm → Prop} {ps : List PointId}
    (hR : ∀ p a b, R p a b → Journal.Grown P a.journal b.journal) (h : Chain R ps a b) : Journal.Grown P a.journal b.journal := by
  induction ps generalizing a with
  | nil => cases h; exact .refl _
  | cons p ps ih =>
    obtain ⟨m, hm, hc⟩ := h
    exact (hR p a m hm).trans (ih hc)

/-- The records that a commit apply appends for the points. -/
def RecordBody.ofApply (o : Origin) (r : RecordBody) : Prop :=
  r.origin = o ∧ r.kind = .point ∧ (r.cause = some .commit ∨ r.cause = some .release ∨ r.cause = some .suppress)

/-! ## The entry passes of an apply -/

/-- The points whose entry test a commit apply runs, in the order of the two passes. -/
abbrev Alarm.entryList (e : Env) (old : Configuration) (a : Alarm) : List PointId :=
  e.config.passOrder (allPoints.filter fun p =>
    decide (Resets old e.config a p ∧ (a.freedAll e old).points[p].abnormal = true))

theorem Alarm.mem_entryList (e : Env) (old : Configuration) (a : Alarm) (p : PointId) : p ∈ a.entryList e old ↔
    Resets old e.config a p ∧ (a.freedAll e old).points[p].abnormal = true := by
  rw [Configuration.mem_passOrder, mem_pointsWith, decide_eq_true_iff]

/-- A point not released keeps what steps 1 to 3 made of it until the entry passes. -/
theorem Alarm.freedAll_kept (h : (a.prepared e old).points[p].state ≠ .suppressed) :
    (a.freedAll e old).points[p] = (a.prepared e old).points[p] :=
  Alarm.release_points_of_notMem _ _ _ _ fun hm => h ((Alarm.mem_freed ..).mp hm).1

theorem Alarm.entries_chain (he : e.defer = true) (hs : ∀ p : PointId, e.config.points[p].suppressor ≠ some p) :
    Chain (fun p => Alarm.Begun e p .commit) (a.entryList e old) (a.freedAll e old) (a.entries e old) := by
  obtain ⟨-, -, -, h, -, -⟩ := Alarm.apply_steps he old a hs
  exact h

theorem Alarm.entries_begun (he : e.defer = true) (hs : ∀ p : PointId, e.config.points[p].suppressor ≠ some p) :
    Alarm.AllBegun e .commit (a.entryList e old) (a.freedAll e old) (a.entries e old) := by
  refine (Alarm.entries_chain he hs).allBegun (Configuration.passOrder_nodup _ ((List.nodup_finRange 96).filter _))
    fun p hp => ?_
  have hidle := Alarm.prepared_reset he ((Alarm.mem_entryList ..).mp hp).1
  rw [Alarm.freedAll_kept (by rw [hidle]; nofun), hidle]
  rfl

/-- A point that a commit neither resets nor releases goes through the apply as steps 1 to 3 left it. -/
theorem Alarm.entries_kept (he : e.defer = true) (hs : ∀ p : PointId, e.config.points[p].suppressor ≠ some p)
    (hr : ¬Resets old e.config a p) (hp : (a.prepared e old).points[p].state ≠ .suppressed) :
    (a.entries e old).points[p] = (a.prepared e old).points[p] := by
  rw [(Alarm.entries_begun he hs).others p fun hm => hr ((Alarm.mem_entryList ..).mp hm).1, Alarm.freedAll_kept hp]

/-! ## What an apply leaves -/

theorem Alarm.apply_grown (he : e.defer = true) (hs : ∀ p : PointId, e.config.points[p].suppressor ≠ some p) :
    Journal.Grown (RecordBody.ofApply e.origin) a.journal (a.apply e old).journal := by
  obtain ⟨h2, h3, h4, -, -, hf⟩ := Alarm.apply_steps he old a hs
  have h5 := (Alarm.entries_begun (old := old) (a := a) he hs).journal
  have hend : (a.apply e old).journal = (a.entries e old).journal := by rw [hf]
  have hprep : Journal.Grown (RecordBody.ofApply e.origin) a.journal (a.prepared e old).journal := by
    refine ⟨_, h3.journal.trans h2.journal, fun r hr => ?_⟩
    obtain ⟨p, -, rfl⟩ := List.mem_map.mp hr
    exact ⟨rfl, rfl, .inl rfl⟩
  have hfree : Journal.Grown (RecordBody.ofApply e.origin) (a.prepared e old).journal (a.freedAll e old).journal :=
    h4.grown fun p x y h => by
      rw [h.journal]
      exact .one _ ⟨rfl, rfl, .inr (.inl rfl)⟩
  have hpass : Journal.Grown (RecordBody.ofApply e.origin) (a.freedAll e old).journal (a.entries e old).journal := by
    obtain ⟨bs, hbs, hk⟩ := h5
    refine ⟨bs, hbs, fun r hr => ?_⟩
    obtain ⟨hkind, horigin, hcause⟩ := hk r hr
    exact ⟨horigin, hkind, hcause.imp id .inr⟩
  rw [hend]
  exact (hprep.trans hfree).trans hpass

theorem Alarm.apply_chatter (he : e.defer = true) (hs : ∀ p : PointId, e.config.points[p].suppressor ≠ some p) :
    (a.apply e old).chatter = (a.settled e old).chatter := by
  obtain ⟨-, h3, h4, h5, -, hf⟩ := Alarm.apply_steps he old a hs
  calc (a.apply e old).chatter
    _ = (a.entries e old).chatter := by rw [hf]
    _ = (a.freedAll e old).chatter := h5.same (F := Alarm.chatter) fun _ _ _ => Alarm.Begun.chatter
    _ = (a.prepared e old).chatter := h4.same (F := Alarm.chatter) fun _ _ _ h => h.chatter
    _ = (a.settled e old).chatter := h3.chatter

/-- The member counts are those of the new configuration (R46, R58). -/
theorem Alarm.apply_members (he : e.defer = true) (hs : ∀ p : PointId, e.config.points[p].suppressor ≠ some p) :
    (a.apply e old).Members fun g => allPoints.countP fun p => e.config.points[p].group = some g := by
  have h3 : (a.prepared e old).Members fun g => allPoints.countP fun p => e.config.points[p].group = some g := fun g => by
    rw [(Alarm.recomputed_recomputed old e.config (a.settled e old)).groups g]
    dsimp only
    split
    · rfl
    · split <;> rfl
  have h5 := (Alarm.prepared_turns he old a).keeps (fun _ _ h => h.closed (Alarm.Members.closed _ _ _ _)) h3
  rw [(Alarm.apply_ends he hs).2]
  exact h5

/-- The Sounder Controller's settings are none of the points' concern. -/
def Alarm.Tuned (tones : ToneSet) (dual : Bool) (a : Alarm) : Prop := a.sounder.tones = tones ∧ a.sounder.dual = dual

theorem Sounder.passClaim_tuned (test defer : Bool) (now : Nat) (p : PointId) (level : Option Level) (stamp : Nat)
    (x : Sounder) : (x.passClaim test defer now p level stamp).tones = x.tones ∧
      (x.passClaim test defer now p level stamp).dual = x.dual := by
  obtain ⟨-, -, hd, ht⟩ := x.claimAt_channels p level stamp
  rcases x.passClaim_cases test defer now p level stamp with ⟨-, h⟩ | ⟨-, h⟩ | ⟨-, -, h⟩ <;> rw [h]
  · exact ⟨rfl, rfl⟩
  · exact ⟨ht, hd⟩
  · exact ⟨ht, hd⟩

theorem Sounder.chirp_tuned (now : Nat) (x : Sounder) : (x.chirp now).1.tones = x.tones ∧ (x.chirp now).1.dual = x.dual := by
  unfold Sounder.chirp
  split_ifs <;> exact ⟨rfl, rfl⟩

theorem Alarm.Tuned.passClaim {tones : ToneSet} {dual : Bool} (e : Env) (p : PointId) (h : a.Tuned tones dual) :
    (a.passClaim e p).Tuned tones dual := by
  obtain ⟨h1, h2⟩ := Sounder.passClaim_tuned e.test e.defer a.journal.elapsed p (claimOf e.config.points[p] a.points[p])
    a.points[p].entryStamp a.sounder
  exact ⟨h1.trans h.1, h2.trans h.2⟩

theorem Alarm.Tuned.closed (tones : ToneSet) (dual test defer : Bool) (c : Configuration) :
    Alarm.Closed test defer c (Alarm.Tuned tones dual) where
  keep _ _ _ _ _ h := h
  claim e a p d _ _ _ h := Alarm.Tuned.passClaim (a := a.setPoint p d) e p h
  append _ _ h := h
  chirp a h := by
    obtain ⟨h1, h2⟩ := Sounder.chirp_tuned a.journal.elapsed a.sounder
    exact ⟨h1.trans h.1, h2.trans h.2⟩
  groups _ _ _ _ h := h
  shelf _ _ h := h
  chatter _ _ h := h

theorem Alarm.apply_tuned (e : Env) (old : Configuration) (a : Alarm) :
    (a.apply e old).Tuned a.sounder.tones a.sounder.dual :=
  Alarm.apply_closed (Alarm.Tuned.closed ..) (fun _ p => Alarm.Tuned.passClaim e p) (fun _ _ h => h) old ⟨rfl, rfl⟩

/-! ## Points that a commit disables, and shelved points that it keeps -/

theorem Alarm.apply_disabled (he : e.defer = true) (hs : ∀ p : PointId, e.config.points[p].suppressor ≠ some p)
    (h : Disables old e.config p) : (a.apply e old).points[p].state = .disabled ∧
      (a.apply e old).points[p].occurrence = a.points[p].occurrence ∧ (a.apply e old).chatter[p] = ⟨0, none⟩ := by
  have h2 := Alarm.settled_settled he old a
  obtain ⟨m, hm, -⟩ := (Alarm.recomputed_recomputed old e.config (a.settled e old)).point p
  have hset : (a.settled e old).points[p] =
      { a.points[p] with state := .disabled, mark := false, hushed := false, reminder := none } := by
    rw [h2.points p, if_pos h]
  have hprep : (a.prepared e old).points[p].state = .disabled ∧
      (a.prepared e old).points[p].occurrence = a.points[p].occurrence := by
    rw [hm, hset]; exact ⟨rfl, rfl⟩
  have hkept := Alarm.entries_kept he hs (fun hr => by have := hr.1; rw [h.2] at this; cases this)
    (by rw [hprep.1]; nofun)
  obtain ⟨r, hr, -⟩ := Alarm.apply_point (old := old) (a := a) he hs p
  rw [hr, hkept, Alarm.apply_chatter he hs, h2.chatter p, if_pos (.inl h)]
  exact ⟨hprep.1, hprep.2, rfl⟩

theorem Alarm.apply_shelved (he : e.defer = true) (hs : ∀ p : PointId, e.config.points[p].suppressor ≠ some p)
    (h : a.points[p].state = .shelved) (hn : e.config.points[p].enabled = true) :
    (a.apply e old).points[p].state = .shelved := by
  have h2 := Alarm.settled_settled he old a
  have hr : ¬Resets old e.config a p := fun hr => hr.2.2 h
  have hset : (a.settled e old).points[p] = a.points[p] := by
    rw [h2.points p, if_neg, if_neg hr]
    rintro ⟨-, hd⟩
    rw [hn] at hd
    cases hd
  have hprep : (a.prepared e old).points[p].state = .shelved := by
    rw [(Alarm.recomputed_recomputed old e.config (a.settled e old)).state, hset, h]
  rw [Alarm.apply_state he hs, Alarm.entries_kept he hs hr (by rw [hprep]; nofun), hprep]

/-- The points that a commit releases are SUPPRESSED without an active suppressor (R59). -/
theorem Alarm.freed_eq (c : Configuration) (a : Alarm) : a.freed c = allPoints.filter fun p =>
    decide (a.points[p].state = .suppressed ∧ ∀ q, c.points[p].suppressor = some q → a.points[q].state.active = false) := by
  refine List.filter_congr fun p _ => ?_
  rw [Bool.eq_iff_iff, Bool.and_eq_true, decide_eq_true_iff, decide_eq_true_iff, Bool.not_eq_true',
    Bool.eq_false_iff, ne_eq, Alarm.suppressorActive_iff]
  simp only [not_exists, not_and, Bool.not_eq_true]

end Sys2Proof.Machine
end


section
/-! SUPPORT. A commit apply as one operation on the part (R99, R100, R115, R154, R158, R159, R179). -/

namespace Sys2Proof.Machine

variable {s x : Part} {c : Configuration} {l : LinkId}

/-! ## The TEST lock (R115) -/

/-- The test set once a locked TEST key has left it. -/
def Part.lockedSet (s : Part) : TestSet :=
  if s.active.global.lockTest = true then { s.panel.testSet with key := false } else s.panel.testSet

/-- A locked TEST key alone holds the test: the lock ends it. -/
abbrev Part.LockEnds (s : Part) : Prop := s.active.global.lockTest = true ∧ s.panel.testSet = ⟨true, false, false⟩

/-- The alarms after the lock: where it ends the test, the channels go back to their targets, after the TEST_END record. -/
def Part.lockedAlarm (s : Part) : Alarm :=
  if s.LockEnds then { s.alarm with
    journal := s.alarm.journal.append { kind := .testEnd, origin := .part }
    sounder := s.alarm.sounder.assign s.alarm.journal.elapsed {} }
  else s.alarm

theorem Part.append_soundLevels (s : Part) (r : RecordBody) : (s.append r).soundLevels = { s with
    alarm := { s.alarm with
      journal := s.alarm.journal.append r
      sounder := s.alarm.sounder.assign s.alarm.journal.elapsed {} } } := by
  unfold Part.soundLevels Part.append Alarm.append
  simp only [Journal.append_elapsed]

/-- A key that leaves the test set ends the test when no link is in it. -/
theorem Part.dropKey_spec (h : s.panel.testSet.key = true) : ∃ r : Vector Bool 3,
    s.changeTestSet .part { s.panel.testSet with key := false } = { s with
      panel := { s.panel with testSet := { s.panel.testSet with key := false }, relays := r }
      alarm := if s.panel.testSet = ⟨true, false, false⟩ then { s.alarm with
          journal := s.alarm.journal.append { kind := .testEnd, origin := .part }
          sounder := s.alarm.sounder.assign s.alarm.journal.elapsed {} }
        else s.alarm } := by
  have hact : s.panel.testSet.active = true := by unfold TestSet.active; rw [h]; rfl
  by_cases hend : s.panel.testSet = ⟨true, false, false⟩
  · rw [if_pos hend]
    have hoff : ({ s.panel.testSet with key := false } : TestSet).active = false := by rw [hend]; rfl
    have hlevels := Part.append_soundLevels (s.setTestSet { s.panel.testSet with key := false })
      { kind := .testEnd, origin := .part }
    unfold Part.changeTestSet
    rw [hact, hoff]
    exact ⟨_, (congrArg Part.settleRelays hlevels).trans rfl⟩
  · rw [if_neg hend]
    have hon : ({ s.panel.testSet with key := false } : TestSet).active = true := by
      generalize s.panel.testSet = t at h hend
      obtain ⟨key, a, b⟩ := t
      cases h
      revert a b
      decide
    unfold Part.changeTestSet
    rw [hact, hon]
    exact ⟨s.panel.relays, rfl⟩

theorem Part.applyLock_spec (s : Part) : ∃ r : Vector Bool 3, s.applyLock =
    { s with panel := { s.panel with testSet := s.lockedSet, relays := r }, alarm := s.lockedAlarm } := by
  unfold Part.applyLock Part.lockedSet Part.lockedAlarm
  by_cases hk : s.active.global.lockTest = true ∧ s.panel.testSet.key = true
  · obtain ⟨r, hr⟩ := Part.dropKey_spec hk.2
    rw [if_pos (Bool.and_eq_true_iff.mpr hk), if_pos hk.1, hr]
    simp only [Part.LockEnds, hk.1, true_and]
    exact ⟨r, rfl⟩
  · have hset : (if s.active.global.lockTest = true then { s.panel.testSet with key := false } else s.panel.testSet) =
        s.panel.testSet := by
      split
      · next hl =>
        have hkey : s.panel.testSet.key = false := Bool.eq_false_iff.mpr fun hkey => hk ⟨hl, hkey⟩
        rw [← hkey]
      · rfl
    rw [if_neg (fun h => hk (Bool.and_eq_true_iff.mp h)), hset, if_neg fun h : s.LockEnds => hk ⟨h.1, by rw [h.2]⟩]
    exact ⟨s.panel.relays, rfl⟩

/-! ## What a commit apply leaves in each block -/

/-- The whole of a commit apply: the alarms after the lock, the test set and the relays, in the part with its copies. -/
theorem Part.applyCommit_spec (c : Configuration) (l : LinkId) (s : Part) : ∃ r : Vector Bool 3,
    s.applyCommit c l = { s.sourced c l with
      panel := { s.panel with testSet := (s.evaluated c (s.sourced c l)).lockedSet, relays := r }
      alarm := (s.evaluated c (s.sourced c l)).lockedAlarm } := by
  obtain ⟨q, hq⟩ := Part.applyLock_spec (s.evaluated c (s.sourced c l))
  have hpanel := (Part.sourced_frame c l s).2.2
  have heq := Part.applyCommit_evaluated c l s
  generalize s.sourced c l = x at *
  refine ⟨(s.evaluated c x).applyLock.settleRelays.panel.relays, ?_⟩
  rw [heq, hq, ← hpanel]
  rfl

theorem Part.applyCommit_alarm (c : Configuration) (l : LinkId) (s : Part) :
    (s.applyCommit c l).alarm = (s.evaluated c (s.sourced c l)).lockedAlarm := by
  obtain ⟨r, hr⟩ := Part.applyCommit_spec c l s
  generalize s.sourced c l = x at *
  have hm := congrArg Part.alarm hr
  exact hm.trans rfl

theorem Part.applyCommit_lines (c : Configuration) (l : LinkId) (s : Part) (i : LineId) :
    (s.applyCommit c l).lines[i] = (s.lines[i]).applyRecord c.lines[i] := by
  obtain ⟨r, hr⟩ := Part.applyCommit_spec c l s
  have hx := congrArg Part.lines (s.sourced_resourced c l).frame
  generalize s.sourced c l = x at hr hx
  have hm : (s.applyCommit c l).lines = x.lines := by
    have h := congrArg Part.lines hr
    exact h.trans rfl
  rw [hm, hx]
  exact getElem_tabulate ..

theorem Part.applyCommit_link (c : Configuration) (l k : LinkId) (s : Part) :
    (s.applyCommit c l).link k = (s.link k).applyRecord s.alarm.journal.elapsed (c.link k) := by
  obtain ⟨r, hr⟩ := Part.applyCommit_spec c l s
  have hx := (s.sourced_resourced c l).frame
  have hcopied : (s.copied c l).link k = (s.link k).applyRecord s.alarm.journal.elapsed (c.link k) := by cases k <;> rfl
  generalize s.sourced c l = x at hr hx
  have hlink : x.link k = (s.copied c l).link k := by rw [hx]; cases k <;> rfl
  rw [hr, ← hcopied, ← hlink]
  cases k <;> rfl

theorem Part.applyCommit_panel (c : Configuration) (l : LinkId) (s : Part) :
    (s.applyCommit c l).panel.testSet =
      (if c.global.lockTest = true then { s.panel.testSet with key := false } else s.panel.testSet) ∧
    (s.applyCommit c l).panel.flash = s.panel.flash ∧ ∀ k, (s.applyCommit c l).panel.key k = s.panel.key k := by
  obtain ⟨r, hr⟩ := Part.applyCommit_spec c l s
  obtain ⟨ha, -, hp⟩ := Part.sourced_frame c l s
  generalize s.sourced c l = x at hr ha hp
  have hpanel := congrArg Part.panel hr
  have hset : (s.evaluated c x).lockedSet =
      if c.global.lockTest = true then { s.panel.testSet with key := false } else s.panel.testSet := by
    unfold Part.lockedSet Part.evaluated
    simp only [ha, hp]
  rw [hset] at hpanel
  generalize (if c.global.lockTest = true then { s.panel.testSet with key := false } else s.panel.testSet) = ts at hpanel ⊢
  rw [hpanel]
  exact ⟨rfl, rfl, fun k => by cases k <;> rfl⟩

/-! ### Lines and links (R158, R179) -/

theorem Link.applyRecord_spec (now : Nat) (r : LinkConfig) (k : Link) : k.applyRecord now r = { k with
    authority := r.authority
    heartbeat := r.heartbeat
    supervision := if k.state = .live ∧ r.heartbeat ≠ k.heartbeat then
        (if r.heartbeat = 0 then none else some (clockAfter now (r.heartbeat * 1000)))
      else k.supervision } := by
  unfold Link.applyRecord
  cases hk : k.state with
  | live =>
    by_cases hb : r.heartbeat = k.heartbeat
    · simp [hb]
    · simp [hb, Link.superviseFrom]
  | down => simp
  | silent => simp

/-! ### Conditions (R44) -/

theorem Part.applyCommit_kept {p : PointId} (h : c.points[p].source = s.active.points[p].source) :
    (s.applyCommit c l).conditions[p] = s.conditions[p] := by
  rw [Part.applyCommit_conditions]
  obtain ⟨hc, -, -⟩ := (s.sourced_resourced c l).kept p (.inr h)
  exact hc.trans rfl

/-- Where a source changes, the assertions held that the new source reads stay, and the condition comes from the new source. -/
theorem Part.applyCommit_changed {p : PointId}
    (h : c.points[p].source ≠ s.active.points[p].source) :
    (∀ k : LinkId, (s.applyCommit c l).conditions[p].by k = (s.conditions[p].by k &&
      decide (c.points[p].source = .msgAny ∨ c.points[p].source = .msg k))) ∧
    (s.applyCommit c l).conditions[p].abnormal = (s.sourced c l).alarm.points[p].abnormal ∧
    (s.applyCommit c l).conditions[p].abnormal = (s.applyCommit c l).conditionOf p := by
  have hcond : (s.applyCommit c l).conditions = (s.sourced c l).conditions := Part.applyCommit_conditions c l s
  have hread := (s.sourced_resourced c l).reading p
  obtain ⟨hc, hpt, -⟩ := (s.sourced_resourced c l).changed p (List.mem_finRange p) h
  have hm : (s.applyCommit c l).reading p ((s.applyCommit c l).conditions[p]) =
      (s.copied c l).reading p ((s.applyCommit c l).conditions[p]) := by
    refine Part.reading_congr ?_ (fun n _ => ?_) fun k _ => ?_
    · rw [(Part.applyCommit_frame c l s).1]; rfl
    · rw [Part.applyCommit_lines, Line.applyRecord_abnormal, Part.copied_lines]
    · rw [Part.applyCommit_link, Link.applyRecord_state, Part.copied_link]
  generalize s.sourced c l = x at *
  refine ⟨fun k => ?_, ?_, ?_⟩
  · have hk : (s.applyCommit c l).conditions[p].by k = (s.conditions[p].keepRead c.points[p].source).by k := by
      rw [hcond, hc]; cases k <;> rfl
    rw [hk, Condition.keepRead_by, Bool.eq_iff_iff, Bool.and_eq_true, Bool.and_eq_true, Source.reads_iff,
      decide_eq_true_iff]
  · rw [hcond, hpt]
  · rw [Part.conditionOf_eq, hm, hcond, hc]
    exact (Part.reading_abnormal ..).symm

/-! ### The alarms (R27, R99, R100) -/

/-- The alarms of a commit apply before its one evaluation. -/
def Part.appliedAlarm (c : Configuration) (l : LinkId) (s : Part) : Alarm :=
  (s.sourced c l).alarm.apply (s.commitEnv c) s.active

theorem Part.appliedAlarm_elapsed (c : Configuration) (l : LinkId) (s : Part) :
    (s.appliedAlarm c l).journal.elapsed = s.alarm.journal.elapsed := by
  unfold Part.appliedAlarm
  rw [Alarm.apply_elapsed]
  exact (s.sourced_alarm c l).2.2.2

/-- The Sounder Controller after the one evaluation of a commit apply (R99, R100). -/
def Part.appliedSounder (c : Configuration) (l : LinkId) (s : Part) : Sounder :=
  if s.panel.testSet.active = true then (s.appliedAlarm c l).sounder
  else (s.appliedAlarm c l).sounder.assign s.alarm.journal.elapsed (changedLevels s.active.tones c.tones)

theorem Part.applyCommit_points (c : Configuration) (l : LinkId) (s : Part) :
    (s.applyCommit c l).alarm.points = (s.appliedAlarm c l).points ∧
    (s.applyCommit c l).alarm.groups = (s.appliedAlarm c l).groups ∧
    (s.applyCommit c l).alarm.shelf = (s.appliedAlarm c l).shelf ∧
    (s.applyCommit c l).alarm.chatter = (s.appliedAlarm c l).chatter := by
  rw [Part.applyCommit_alarm]
  unfold Part.appliedAlarm
  generalize s.sourced c l = x
  unfold Part.lockedAlarm
  split_ifs <;> exact ⟨rfl, rfl, rfl, rfl⟩

/-- The test that a locked TEST key held alone ends after the points' records; else the channels stay as evaluated. -/
theorem Part.applyCommit_ending (c : Configuration) (l : LinkId) (s : Part) :
    if c.global.lockTest = true ∧ s.panel.testSet = ⟨true, false, false⟩ then
      (s.applyCommit c l).alarm.sounder = (s.appliedSounder c l).assign s.alarm.journal.elapsed {} ∧
        (s.applyCommit c l).alarm.journal = (s.appliedAlarm c l).journal.append { kind := .testEnd, origin := .part }
    else (s.applyCommit c l).alarm.sounder = s.appliedSounder c l ∧
      (s.applyCommit c l).alarm.journal = (s.appliedAlarm c l).journal := by
  have helapsed := Part.appliedAlarm_elapsed c l s
  obtain ⟨ha, -, hp⟩ := Part.sourced_frame c l s
  rw [Part.applyCommit_alarm]
  unfold Part.appliedSounder
  unfold Part.appliedAlarm at *
  generalize s.sourced c l = x at *
  have hends : (s.evaluated c x).LockEnds ↔ c.global.lockTest = true ∧ s.panel.testSet = ⟨true, false, false⟩ := by
    rw [← ha, ← hp]; rfl
  have hsounder : (s.evaluated c x).alarm.sounder = (x.alarm.apply (s.commitEnv c) s.active).sounder.evaluate
      s.panel.testSet.active s.alarm.journal.elapsed (changedLevels s.active.tones c.tones) := rfl
  have hjournal : (s.evaluated c x).alarm.journal = (x.alarm.apply (s.commitEnv c) s.active).journal := rfl
  unfold Sounder.evaluate at hsounder
  unfold Part.lockedAlarm
  split
  · next h =>
    rw [if_pos (hends.mpr h)]
    dsimp only
    rw [hsounder, hjournal, helapsed]
    exact ⟨rfl, rfl⟩
  · next h =>
    rw [if_neg fun hl => h (hends.mp hl), hsounder, hjournal]
    exact ⟨rfl, rfl⟩

theorem Sounder.assign_settings (now : Nat) (r : LevelSet) (x : Sounder) :
    (x.assign now r).tones = x.tones ∧ (x.assign now r).dual = x.dual := ⟨rfl, rfl⟩

theorem Part.applyCommit_tuned (c : Configuration) (l : LinkId) (s : Part) :
    (s.applyCommit c l).alarm.Tuned c.tones c.global.dual := by
  have happly : (s.appliedAlarm c l).Tuned c.tones c.global.dual := by
    have h := Alarm.apply_tuned (s.commitEnv c) s.active (s.sourced c l).alarm
    rw [(s.sourced_alarm c l).2.2.1] at h
    exact h
  have hone : (s.appliedSounder c l).tones = c.tones ∧ (s.appliedSounder c l).dual = c.global.dual := by
    unfold Part.appliedSounder
    split <;> exact happly
  have hend := Part.applyCommit_ending c l s
  unfold Alarm.Tuned
  split at hend <;> obtain ⟨hs, -⟩ := hend <;> rw [hs] <;> exact hone

/-- The records of a commit apply after COMMIT: those for the points, then perhaps TEST_END. -/
def RecordBody.ofCommit (r : RecordBody) : Prop :=
  r.origin = .part ∧ (r.kind = .testEnd ∨ r.kind = .point ∧
    (r.cause = some .commit ∨ r.cause = some .release ∨ r.cause = some .suppress))

theorem Part.applyCommit_grown (hp : c.check l = .passed) :
    Journal.Grown RecordBody.ofCommit (s.sourced c l).alarm.journal (s.applyCommit c l).alarm.journal := by
  have happly : Journal.Grown RecordBody.ofCommit (s.sourced c l).alarm.journal (s.appliedAlarm c l).journal := by
    obtain ⟨bs, hbs, hk⟩ := Alarm.apply_grown (e := s.commitEnv c) (old := s.active) (a := (s.sourced c l).alarm) rfl
      (Configuration.check_self hp)
    exact ⟨bs, hbs, fun r hr => ⟨(hk r hr).1, .inr (hk r hr).2⟩⟩
  have hend := Part.applyCommit_ending c l s
  split at hend <;> obtain ⟨-, hj⟩ := hend <;> rw [hj]
  · exact happly.trans (.one _ ⟨rfl, .inl rfl⟩)
  · exact happly

end Sys2Proof.Machine
end


section
/-! SUPPORT. COMMIT_CHECK_COMPLETION of a check that passes (R44, R57 to R60, R99, R100, R115, R154, R158, R179). -/

namespace Sys2Proof.Machine

variable {s : Part} {c : Configuration} {l : LinkId}

/-! ## The stage before the alarms change -/

theorem Configuration.countPointsChanged_eq (x y : Configuration) :
    x.countPointsChanged y = allPoints.countP fun p => x.points[p] ≠ y.points[p] := by
  unfold Configuration.countPointsChanged
  rw [List.countP_eq_length_filter]

theorem Part.sourced_start (c : Configuration) (l : LinkId) (s : Part) : (s.sourced c l).alarm = { s.alarm with
    journal := s.alarm.journal.append
      { kind := .commit, origin := .link l, detail := some (s.manager.sessionId * 256 +
        allPoints.countP fun p => s.active.points[p] ≠ c.points[p]) }
    sounder := { s.alarm.sounder with tones := c.tones, dual := c.global.dual }
    points := (s.sourced c l).alarm.points, lamps := (s.sourced c l).alarm.lamps } := by
  rw [← Configuration.countPointsChanged_eq]
  have h := congrArg Part.alarm (s.sourced_resourced c l).frame
  generalize s.sourced c l = x at *
  exact h.trans rfl

theorem Part.sourced_point (c : Configuration) (l : LinkId) (s : Part) (p : PointId) : (s.sourced c l).alarm.points[p] =
    if c.points[p].source = s.active.points[p].source then s.alarm.points[p]
    else { s.alarm.points[p] with abnormal := (s.applyCommit c l).conditions[p].abnormal } := by
  split
  · next h =>
    obtain ⟨-, hp, -⟩ := (s.sourced_resourced c l).kept p (.inr h)
    exact hp.trans rfl
  · next h =>
    obtain ⟨v, hv, -⟩ := s.sourced_points c l p
    rw [(Part.applyCommit_changed h).2.1, hv]

theorem Part.sourced_lamp (c : Configuration) (l : LinkId) (s : Part) (p : PointId) : (s.sourced c l).alarm.lamps[p] =
    if c.points[p].source = s.active.points[p].source then s.alarm.lamps[p] else s.alarm.points[p].pattern := by
  split
  · next h =>
    obtain ⟨-, -, hl⟩ := (s.sourced_resourced c l).kept p (.inr h)
    exact hl.trans rfl
  · next h =>
    obtain ⟨-, -, hl⟩ := (s.sourced_resourced c l).changed p (List.mem_finRange p) h
    exact hl.trans rfl

theorem Part.sourced_same (c : Configuration) (l : LinkId) (s : Part) (p : PointId) :
    (s.sourced c l).alarm.points[p].state = s.alarm.points[p].state ∧
    (s.sourced c l).alarm.points[p].occurrence = s.alarm.points[p].occurrence := by
  obtain ⟨v, hv, -⟩ := s.sourced_points c l p
  rw [hv]
  exact ⟨rfl, rfl⟩

theorem Part.sourced_resets (c : Configuration) (l : LinkId) (s : Part) (p : PointId) :
    Resets s.active c (s.sourced c l).alarm p ↔ Resets s.active c s.alarm p := by
  unfold Resets
  rw [(s.sourced_same c l p).1]

/-! ## What a commit apply leaves of the points -/

theorem Part.applyCommit_abnormal (hp : c.check l = .passed) (p : PointId) :
    (s.applyCommit c l).alarm.points[p].abnormal = (s.sourced c l).alarm.points[p].abnormal := by
  rw [(Part.applyCommit_points c l s).1]
  exact Alarm.apply_abnormal (e := s.commitEnv c) rfl (Configuration.check_self hp) p

theorem Part.applyCommit_members (hp : c.check l = .passed) (g : GroupId) :
    (s.applyCommit c l).alarm.groups[g].members = allPoints.countP fun p => c.points[p].group = some g := by
  rw [(Part.applyCommit_points c l s).2.1]
  exact Alarm.apply_members (e := s.commitEnv c) (old := s.active) rfl (Configuration.check_self hp) g

theorem Part.applyCommit_shelved (hp : c.check l = .passed) {p : PointId} (h : s.alarm.points[p].state = .shelved)
    (hn : c.points[p].enabled = true) : (s.applyCommit c l).alarm.points[p].state = .shelved := by
  rw [(Part.applyCommit_points c l s).1]
  exact Alarm.apply_shelved (e := s.commitEnv c) rfl (Configuration.check_self hp)
    ((s.sourced_same c l p).1.trans h) hn

theorem Part.applyCommit_disabled (hp : c.check l = .passed) {p : PointId} (ho : s.active.points[p].enabled = true)
    (hn : c.points[p].enabled = false) : (s.applyCommit c l).alarm.points[p].state = .disabled ∧
      (s.applyCommit c l).alarm.points[p].occurrence = s.alarm.points[p].occurrence ∧
      (s.applyCommit c l).alarm.chatter[p] = ⟨0, none⟩ := by
  obtain ⟨hpoints, -, -, hchatter⟩ := Part.applyCommit_points c l s
  rw [hpoints, hchatter, ← (s.sourced_same c l p).2]
  exact Alarm.apply_disabled (e := s.commitEnv c) rfl (Configuration.check_self hp) ⟨ho, hn⟩

/-! ## The steps -/

/-- The releases are of the points that are SUPPRESSED without an active suppressor. -/
theorem Alarm.freed_chain {e : Env} (old : Configuration) (a : Alarm) : Chain (Alarm.Released e)
    (allPoints.filter fun p => decide ((a.prepared e old).points[p].state = .suppressed ∧
      ∀ q, e.config.points[p].suppressor = some q → (a.prepared e old).points[q].state.active = false))
    (a.prepared e old) (a.freedAll e old) := by
  rw [← Alarm.freed_eq]
  exact Alarm.release_chain ..

/-- The entry passes are over the points that the commit resets and that are ABNORMAL. -/
theorem Part.entryList_eq (c : Configuration) (l : LinkId) (s : Part) :
    (s.sourced c l).alarm.entryList (s.commitEnv c) s.active = c.passOrder (allPoints.filter fun p =>
      decide (Resets s.active c s.alarm p ∧
        ((s.sourced c l).alarm.freedAll (s.commitEnv c) s.active).points[p].abnormal = true)) := by
  refine congrArg c.passOrder (List.filter_congr fun p _ => ?_)
  rw [decide_eq_decide, ← Part.sourced_resets c l s p]

theorem Part.applyCommit_point (hp : c.check l = .passed) (p : PointId) : (s.applyCommit c l).alarm.points[p] =
    { ((s.sourced c l).alarm.entries (s.commitEnv c) s.active).points[p] with
      reminder := reminderApplied s.alarm.journal.elapsed s.active.points[p] c.points[p]
        ((s.sourced c l).alarm.entries (s.commitEnv c) s.active).points[p] } := by
  have hs := Configuration.check_self hp
  obtain ⟨hpt, hall⟩ := Alarm.apply_ends (e := s.commitEnv c) (old := s.active) (a := (s.sourced c l).alarm) rfl hs
  have helapsed : ((s.sourced c l).alarm.entries (s.commitEnv c) s.active).journal.elapsed = s.alarm.journal.elapsed := by
    rw [← Part.appliedAlarm_elapsed c l s]
    unfold Part.appliedAlarm
    rw [hall]
  rw [(Part.applyCommit_points c l s).1, ← helapsed]
  exact hpt p

/-- What a commit apply takes over from the alarms after the entry passes. -/
theorem Part.appliedAlarm_rest (hp : c.check l = .passed) :
    (s.appliedAlarm c l).groups = ((s.sourced c l).alarm.entries (s.commitEnv c) s.active).groups ∧
    (s.appliedAlarm c l).shelf = ((s.sourced c l).alarm.entries (s.commitEnv c) s.active).shelf ∧
    (s.appliedAlarm c l).chatter = ((s.sourced c l).alarm.entries (s.commitEnv c) s.active).chatter ∧
    (s.appliedAlarm c l).sounder = ((s.sourced c l).alarm.entries (s.commitEnv c) s.active).sounder ∧
    (s.appliedAlarm c l).journal = ((s.sourced c l).alarm.entries (s.commitEnv c) s.active).journal := by
  have hall := (Alarm.apply_ends (e := s.commitEnv c) (old := s.active) (a := (s.sourced c l).alarm) rfl
    (Configuration.check_self hp)).2
  unfold Part.appliedAlarm
  rw [hall]
  exact ⟨rfl, rfl, rfl, rfl, rfl⟩

/-! ## The command -/

/-- The part whose commit check has ended. -/
abbrev Part.checkEnded (s : Part) : Part := { s with manager := { s.manager with check := none } }

/-- A check that is due and passes applies the staging; the reply takes its reserved place (R154, R158). -/
theorem exec_commitCheckCompletion_passed {s : State} {h : LinkId} {f : Frame} {d : Nat}
    (hcheck : s.manager.check = some d) (hdue : timeLeft s.alarm.journal.elapsed d = 0) (hholder : s.manager.holder = some h)
    (hstaging : s.manager.staging = some c) (hf : (s.link h).executing = some f) (hp : c.check h = .passed) :
    exec .commitCheckCompletion s = s.becomes ((s.toPart.checkEnded.applyCommit c h).conclude h f
      (okAnswer (be 1 s.manager.sessionId ++ be 1 (s.active.countPointsChanged c) ++ be 4 s.alarm.journal.nextSeq))) := by
  have hexec : ((s.toPart.checkEnded.applyCommit c h).link h).executing = some f := by
    have hidle : s.toPart.checkEnded.link h = s.link h := by cases h <;> rfl
    rw [Part.applyCommit_link, Link.applyRecord_spec, hidle]
    exact hf
  have hstaged : s.toPart.checkEnded.staged = c := by
    unfold Part.staged
    rw [hstaging]; rfl
  have hconcl : s.toPart.checkEnded.concludeCheck h = (s.toPart.checkEnded.applyCommit c h,
      okAnswer (be 1 s.manager.sessionId ++ be 1 (s.active.countPointsChanged c) ++ be 4 s.alarm.journal.nextSeq)) := by
    unfold Part.concludeCheck
    rw [hstaged]
    simp only [hp]
  have htimer : Timer.due s.alarm.journal.elapsed s.manager.check = true := by
    rw [hcheck]
    exact decide_eq_true hdue
  unfold Part.conclude
  generalize s.toPart.checkEnded.applyCommit c h = m at *
  have hdone : s.toPart.completeCheck = m.setLink h ((m.link h).finish f
      (okAnswer (be 1 s.manager.sessionId ++ be 1 (s.active.countPointsChanged c) ++ be 4 s.alarm.journal.nextSeq))) := by
    unfold Part.completeCheck
    rw [hholder]
    simp only [hconcl, hexec]
  have hrun : s.toPart.checkExpired = _ := (if_pos htimer).trans (congrArg Part.serve hdone)
  exact congrArg s.becomes hrun

/-- The steps of a commit apply, in the alarms that each leaves (R27, R57 to R60, R76). -/
theorem Part.applyCommit_chains (hp : c.check l = .passed) :
    Chain (Alarm.Released (s.commitEnv c)) (allPoints.filter fun p =>
        decide (((s.sourced c l).alarm.prepared (s.commitEnv c) s.active).points[p].state = .suppressed ∧
          ∀ q, c.points[p].suppressor = some q →
            ((s.sourced c l).alarm.prepared (s.commitEnv c) s.active).points[q].state.active = false))
      ((s.sourced c l).alarm.prepared (s.commitEnv c) s.active) ((s.sourced c l).alarm.freedAll (s.commitEnv c) s.active) ∧
    Chain (fun p => Alarm.Begun (s.commitEnv c) p .commit) (c.passOrder (allPoints.filter fun p =>
        decide (Resets s.active c s.alarm p ∧
          ((s.sourced c l).alarm.freedAll (s.commitEnv c) s.active).points[p].abnormal = true)))
      ((s.sourced c l).alarm.freedAll (s.commitEnv c) s.active) ((s.sourced c l).alarm.entries (s.commitEnv c) s.active) := by
  have h4 := Alarm.freed_chain (e := s.commitEnv c) s.active (s.sourced c l).alarm
  have h5 := Alarm.entries_chain (e := s.commitEnv c) (old := s.active) (a := (s.sourced c l).alarm) rfl
    (Configuration.check_self hp)
  rw [Part.entryList_eq] at h5
  exact ⟨h4, h5⟩

/-- The Sounder Controller and the Journal at the end, from the alarms after the entry passes (R99, R100, R115). -/
theorem Part.applyCommit_sounder (hp : c.check l = .passed) :
    let a5 := (s.sourced c l).alarm.entries (s.commitEnv c) s.active
    let x : Sounder := if s.panel.testSet.active then a5.sounder
      else a5.sounder.assign s.alarm.journal.elapsed (changedLevels s.active.tones c.tones)
    if c.global.lockTest = true ∧ s.panel.testSet = ⟨true, false, false⟩ then
      (s.applyCommit c l).alarm.sounder = x.assign s.alarm.journal.elapsed {} ∧
        (s.applyCommit c l).alarm.journal = a5.journal.append { kind := .testEnd, origin := .part }
    else (s.applyCommit c l).alarm.sounder = x ∧ (s.applyCommit c l).alarm.journal = a5.journal := by
  obtain ⟨-, -, -, hsounder, hjournal⟩ := Part.appliedAlarm_rest (s := s) hp
  have hend := Part.applyCommit_ending c l s
  unfold Part.appliedSounder at hend
  rw [hsounder, hjournal] at hend
  exact hend

/-- Settles O48: block by block, the alarms by the steps of the apply (`Alarm.apply_steps`) from where the sources left them. -/
theorem passedCommitAppliesTheStaging : Obligations.PassedCommitAppliesTheStaging := by
  unfold Obligations.PassedCommitAppliesTheStaging
  intro s h f c d hcheck hdue hholder hstaging hf hp n
  have hexec := exec_commitCheckCompletion_passed hcheck hdue hholder hstaging hf hp
  rw [Configuration.countPointsChanged_eq] at hexec
  obtain ⟨hactive, hmanager⟩ := Part.applyCommit_frame c h s.toPart.checkEnded
  obtain ⟨bs, hbs, hkinds⟩ := Part.applyCommit_grown (s := s.toPart.checkEnded) hp
  have hstart := Part.sourced_start c h s.toPart.checkEnded
  have htuned := Part.applyCommit_tuned c h s.toPart.checkEnded
  obtain ⟨hpoints, hgroups, hshelf, hchatter⟩ := Part.applyCommit_points c h s.toPart.checkEnded
  obtain ⟨hgroups', hshelf', hchatter', -, -⟩ := Part.appliedAlarm_rest (s := s.toPart.checkEnded) hp
  obtain ⟨hfreed, hentries⟩ := Part.applyCommit_chains (s := s.toPart.checkEnded) hp
  refine ⟨s.toPart.checkEnded.applyCommit c h, bs, hexec, hactive, hmanager, ?_, hkinds, fun i => ?_, fun k => ?_,
    htuned.1, htuned.2, Part.applyCommit_members (s := s.toPart.checkEnded) hp,
    fun p => Part.applyCommit_kept (s := s.toPart.checkEnded), fun p hsrc => ?_,
    fun p => Part.applyCommit_shelved (s := s.toPart.checkEnded) hp,
    fun p => Part.applyCommit_disabled (s := s.toPart.checkEnded) hp,
    ⟨(s.toPart.checkEnded.sourced c h).alarm,
      (s.toPart.checkEnded.sourced c h).alarm.settled (s.toPart.checkEnded.commitEnv c) s.active,
      (s.toPart.checkEnded.sourced c h).alarm.prepared (s.toPart.checkEnded.commitEnv c) s.active,
      (s.toPart.checkEnded.sourced c h).alarm.freedAll (s.toPart.checkEnded.commitEnv c) s.active,
      (s.toPart.checkEnded.sourced c h).alarm.entries (s.toPart.checkEnded.commitEnv c) s.active,
      hstart, Part.sourced_point c h s.toPart.checkEnded, Part.sourced_lamp c h s.toPart.checkEnded,
      Alarm.settled_settled rfl .., Alarm.recomputed_recomputed .., hfreed, hentries,
      Part.applyCommit_point (s := s.toPart.checkEnded) hp, hgroups.trans hgroups', hshelf.trans hshelf',
      hchatter.trans hchatter', Part.applyCommit_sounder (s := s.toPart.checkEnded) hp⟩,
    Part.applyCommit_panel c h s.toPart.checkEnded⟩
  case refine_1 =>
    rw [hbs, hstart, Journal.appendAll_cons]
  case refine_2 =>
    exact Part.applyCommit_lines c h s.toPart.checkEnded i
  case refine_3 =>
    rw [Part.applyCommit_link, Link.applyRecord_spec]
    cases k <;> exact ⟨rfl, rfl, rfl, rfl, rfl, rfl, rfl⟩
  case refine_4 =>
    obtain ⟨hby, hcopy, hcond⟩ := Part.applyCommit_changed (s := s.toPart.checkEnded) (l := h) hsrc
    exact ⟨hby, hcopy.trans (Part.applyCommit_abnormal (s := s.toPart.checkEnded) hp p).symm, hcond⟩

end Sys2Proof.Machine
end


section
/-! SUPPORT. The line scan and the assertions: a line's step against the counts (R32), what a scan makes of the conditions and
the alarms (R33, R37), and what Raise and Clear make of them (R40, R41). -/

namespace Sys2Proof.Machine

variable {s m : Part} {l : LinkId} {v : Bool} {p : PointId} {ps : List PointId} {levels : BitVec 24}

/-! ## One line at one scan (R32) -/

section
variable {x : Line} {w : Wire}

theorem Line.scan_raw (x : Line) (w : Wire) : (x.scan w).raw = w := by
  unfold Line.scan
  split_ifs <;> rfl

theorem Line.scan_config (x : Line) (w : Wire) : (x.scan w).config = x.config := by
  unfold Line.scan
  split_ifs <;> rfl

/-- A sample that agrees with the qualified state ends the run. -/
theorem Line.scan_agrees (h : x.config.abnormal w = x.abnormal) : x.scan w = { x with raw := w, run := 0 } := if_pos h

/-- A sample that differs, and completes the count, changes the qualified state. -/
theorem Line.scan_qualifies (h : x.config.abnormal w ≠ x.abnormal)
    (hr : x.run + 1 = if x.abnormal then x.config.offCount else x.config.onCount) :
    x.scan w = { x with raw := w, abnormal := !x.abnormal, run := 0 } := (if_neg h).trans (if_pos hr)

/-- A sample that differs, short of the count, lengthens the run. -/
theorem Line.scan_counts (h : x.config.abnormal w ≠ x.abnormal)
    (hr : x.run + 1 ≠ if x.abnormal then x.config.offCount else x.config.onCount) :
    x.scan w = { x with raw := w, run := x.run + 1 } := (if_neg h).trans (if_neg hr)

end

/-- Settles O17: the three rows of the table, each from either qualified state. -/
theorem lineScanMovesTheRunCounter : Obligations.LineScanMovesTheRunCounter := by
  unfold Obligations.LineScanMovesTheRunCounter
  intro x w off hoff
  have hclass : x.config.abnormal w = off := hoff.symm
  refine ⟨x.scan_raw w, x.scan_config w, fun ha ho => ?_, fun ha ho hr => ?_, fun ha ho hr => ?_, fun ha ho => ?_,
    fun ha ho hr => ?_, fun ha ho hr => ?_⟩ <;> rw [ho] at hclass
  · rw [Line.scan_agrees (hclass.trans ha.symm)]; exact ⟨ha, rfl⟩
  · rw [Line.scan_counts (by rw [hclass, ha]; nofun) (by rw [ha]; exact hr)]; exact ⟨ha, rfl⟩
  · rw [Line.scan_qualifies (by rw [hclass, ha]; nofun) (by rw [ha]; exact hr), ha]; exact ⟨rfl, rfl⟩
  · rw [Line.scan_agrees (hclass.trans ha.symm)]; exact ⟨ha, rfl⟩
  · rw [Line.scan_counts (by rw [hclass, ha]; nofun) (by rw [ha]; exact hr)]; exact ⟨ha, rfl⟩
  · rw [Line.scan_qualifies (by rw [hclass, ha]; nofun) (by rw [ha]; exact hr), ha]; exact ⟨rfl, rfl⟩

/-! ## Deliveries of changed conditions (R37) -/

/-- The deliveries, in the order of `ps`, of the conditions that differ between `old` and `new` (R37). -/
abbrev Alarm.deliverChanges (e : Env) (old new : Vector Condition 96) (ps : List PointId) (a : Alarm) : Alarm :=
  (ps.filter fun p => decide (new[p].abnormal ≠ old[p].abnormal)).foldl (fun a p => a.deliver e p new[p].abnormal) a

/-- Where the points of `ps` are all that changed, the Sequence Engine's copies follow the changes, and they alone. -/
theorem Alarm.deliverChanges_abnormal (e : Env) {old new : Vector Condition 96} (a : Alarm)
    (h : new[p].abnormal ≠ old[p].abnormal → p ∈ ps) : (a.deliverChanges e old new ps).points[p].abnormal =
      if new[p].abnormal = old[p].abnormal then a.points[p].abnormal else new[p].abnormal := by
  refine (Alarm.foldl_deliver_abnormal e (fun p => new[p].abnormal) ..).trans ?_
  simp only [List.mem_filter, decide_eq_true_iff]
  by_cases hc : new[p].abnormal = old[p].abnormal
  · rw [if_neg fun hm => hm.2 hc, if_pos hc]
  · rw [if_pos ⟨h hc, hc⟩, if_neg hc]

theorem Alarm.deliverChanges_members (e : Env) (old new : Vector Condition 96) (ps : List PointId) (a : Alarm) :
    (a.deliverChanges e old new ps).Members fun g => a.groups[g].members :=
  foldl_keeps (fun _ _ => Alarm.deliver_keeps (Alarm.Members.closed _ _ _ _) _ _) _ fun _ => rfl

theorem Part.brought_alarm (o : Origin) (ps : List PointId) (u : PointId → Bool) (s : Part) : (s.brought o ps u).alarm =
    s.alarm.deliverChanges (s.env o) s.conditions (s.brought o ps u).conditions ps := by
  have hv {p : PointId} (hp : p ∈ ps) : (s.brought o ps u).conditions[p].abnormal = u p := by
    rw [Part.brought_condition, if_pos hp]
  have hf : (ps.filter fun p => decide ((s.brought o ps u).conditions[p].abnormal ≠ s.conditions[p].abnormal)) =
      ps.filter fun p => decide (u p ≠ s.conditions[p].abnormal) := List.filter_congr fun p hp => by rw [hv hp]
  unfold Alarm.deliverChanges
  rw [hf]
  exact List.foldl_ext _ _ _ fun a p hp => by rw [hv (List.mem_of_mem_filter hp)]

/-! ## A scan (R31, R33) -/

/-- The points whose conditions a scan works out again, in the order in which they are taken. -/
abbrev Part.scannedPoints (levels : BitVec 24) (s : Part) : List PointId :=
  (s.sampled levels).pointsOnLines (s.scanOrder levels)

theorem Part.scanOrder_nodup (levels : BitVec 24) (s : Part) : (s.scanOrder levels).Nodup :=
  (orderByRank_perm _ _).nodup_iff.mpr ((List.nodup_finRange 24).filter _)

theorem Part.mem_scannedPoints : p ∈ s.scannedPoints levels ↔
    ∃ n, s.active.points[p].source = .line n ∧ (s.sampled levels).lines[n].abnormal ≠ s.lines[n].abnormal := by
  simp only [Part.scannedPoints, Part.pointsOnLines, List.mem_flatMap, Part.mem_scanOrder, Part.mem_pointsOn]
  exact exists_congr fun n => and_comm.trans (and_congr_right fun _ => ne_comm)

theorem Part.scan_lines (levels : BitVec 24) (s : Part) : (s.scan levels).lines = (s.sampled levels).lines := by
  rw [Part.scan_eq]
  rfl

theorem Part.scan_line (levels : BitVec 24) (s : Part) (n : LineId) :
    (s.scan levels).lines[n] = s.lines[n].scan (wireOf levels n) := by
  rw [Part.scan_lines]
  exact getElem_tabulate ..

/-- A point on a line that changed has its line's new state (R36). -/
theorem Part.scan_condition_changed {n : LineId} (h : s.active.points[p].source = .line n)
    (hn : (s.scan levels).lines[n].abnormal ≠ s.lines[n].abnormal) :
    (s.scan levels).conditions[p] = { s.conditions[p] with abnormal := (s.scan levels).lines[n].abnormal } := by
  have hread : (s.sampled levels).conditionOf p = (s.sampled levels).lines[n].abnormal := by
    unfold Part.conditionOf
    rw [show (s.sampled levels).active.points[p].source = .line n from h]
  rw [Part.scan_lines] at hn ⊢
  rw [Part.scan_eq, Part.brought_condition, if_pos (Part.mem_scannedPoints.mpr ⟨n, h, hn⟩), hread]
  rfl

theorem Part.scan_condition_kept
    (h : ∀ n, s.active.points[p].source = .line n → (s.scan levels).lines[n].abnormal = s.lines[n].abnormal) :
    (s.scan levels).conditions[p] = s.conditions[p] := by
  rw [Part.scan_lines] at h
  rw [Part.scan_eq, Part.brought_condition, if_neg]
  · rfl
  · intro hp
    obtain ⟨n, hsrc, hn⟩ := Part.mem_scannedPoints.mp hp
    exact hn (h n hsrc)

theorem Part.scan_alarm (levels : BitVec 24) (s : Part) : (s.scan levels).alarm =
    s.alarm.deliverChanges (s.env .line) s.conditions (s.scan levels).conditions (s.scannedPoints levels) := by
  rw [Part.scan_eq, Part.brought_alarm]
  rfl

/-- After a scan the Sequence Engine's copies follow the changed conditions, and they alone (R4, R37). -/
theorem Part.scan_abnormal (levels : BitVec 24) (s : Part) (p : PointId) : (s.scan levels).alarm.points[p].abnormal =
    if (s.scan levels).conditions[p].abnormal = s.conditions[p].abnormal then s.alarm.points[p].abnormal
    else (s.scan levels).conditions[p].abnormal := by
  rw [Part.scan_alarm]
  refine Alarm.deliverChanges_abnormal _ _ fun hne => ?_
  by_contra hp
  rw [Part.scan_condition_kept] at hne
  · exact hne rfl
  · intro n hn
    rw [Part.scan_lines]
    by_contra hc
    exact hp (Part.mem_scannedPoints.mpr ⟨n, hn, hc⟩)

/-- Which of a scan's points are delivered, line by line. -/
theorem Part.scannedPoints_filter (levels : BitVec 24) (s : Part) (P : PointId → Prop) [DecidablePred P] :
    (s.scannedPoints levels).filter (fun p => decide (P p)) = (s.scanOrder levels).flatMap fun n =>
      allPoints.filter fun p => decide (s.active.points[p].source = .line n ∧ P p) := by
  unfold Part.scannedPoints Part.pointsOnLines
  rw [List.filter_flatMap]
  congr 1
  funext n
  unfold Part.pointsOn
  rw [List.filter_filter]
  exact List.filter_congr fun p _ => by rw [Bool.and_comm, Bool.decide_and]; rfl

/-- The deliveries of a scan reach the conditions and the alarms only. -/
theorem Part.scan_frame (levels : BitVec 24) (s : Part) :
    ∃ c a, s.scan levels = { s.sampled levels with conditions := c, alarm := a } := ⟨_, _, Part.scan_eq levels s⟩

/-- Settles O18: the scan of the part with the levels presented, point by point. -/
theorem lineScanReachesThePointsOfChangedLines : Obligations.LineScanReachesThePointsOfChangedLines := by
  unfold Obligations.LineScanReachesThePointsOfChangedLines
  intro s levels hdue
  let u : Part := s.toPart.present levels
  have hexec : exec (.lineScan levels) s = s.becomes (u.scan levels).settleRelays.serve := by
    change s.becomes (s.toPart.scanLines levels) = _
    unfold Part.scanLines
    rw [if_pos (show s.scanDue = true from hdue)]
  have hmem : ∀ n, n ∈ u.scanOrder levels ↔ (u.scan levels).lines[n].abnormal ≠ s.lines[n].abnormal := fun n => by
    rw [Part.mem_scanOrder, Part.scan_lines]
    exact ne_comm
  refine ⟨(u.scan levels).settleRelays, u.scanOrder levels, hexec, u.scan_line levels, u.scanOrder_nodup levels, hmem,
    fun n p hsrc hn => ⟨Part.scan_condition_changed (s := u) hsrc hn, fun hne => ?_⟩,
    fun p hp => ⟨Part.scan_condition_kept (s := u) hp, ?_⟩, ?_, ?_, ?_⟩
  · have hc := congrArg Condition.abnormal (Part.scan_condition_changed (s := u) hsrc hn)
    refine (u.scan_abnormal levels p).trans ?_
    rw [hc]
    exact if_neg hne.symm
  · refine (u.scan_abnormal levels p).trans (if_pos ?_)
    rw [Part.scan_condition_kept (s := u) hp]
  · refine (u.scan_alarm levels).trans ?_
    unfold Alarm.deliverChanges
    rw [Part.scannedPoints_filter]
    rfl
  · intro g
    rw [Part.settleRelays_alarm, Part.scan_alarm]
    exact Alarm.deliverChanges_members _ _ _ _ _ g
  · obtain ⟨c, a, hscan⟩ := u.scan_frame levels
    rw [hscan]
    rfl

/-! ## Raise and Clear (R40, R41) -/

theorem Condition.by_withAbnormal (d : Condition) (b : Bool) (l : LinkId) :
    ({ d with abnormal := b } : Condition).by l = d.by l := by cases l <;> rfl

/-- After one entry of the list its point's assertion is as asked, and every other as it was. -/
theorem Part.assertOne_by (l : LinkId) (v : Bool) (p q : PointId) (s : Part) :
    (s.assertOne l v p).conditions[q].by l = if q = p then v else s.conditions[q].by l := by
  obtain ⟨-, hc, -⟩ := Part.assertOne_asserted l v p s
  rw [hc q]
  by_cases hq : q = p
  · subst hq
    rw [if_pos rfl]
    by_cases hv : s.conditions[q].by l = v
    · rw [if_neg fun h => h.2 hv, hv]
    · rw [if_pos ⟨rfl, hv⟩, Condition.by_withAbnormal, Condition.setBy_by]
  · rw [if_neg fun h => hq h.1, if_neg hq]

/-- One more element counted. -/
theorem countP_eq_succ {α : Type} [DecidableEq α] {P Q : α → Bool} {xs : List α} {x : α} (hn : xs.Nodup) (hx : x ∈ xs)
    (hP : P x = true) (hQ : Q x = false) (h : ∀ y, y ≠ x → P y = Q y) : xs.countP P = xs.countP Q + 1 := by
  rw [(List.perm_cons_erase hx).countP_eq, (List.perm_cons_erase hx).countP_eq Q, List.countP_cons_of_pos hP,
    List.countP_cons_of_neg (by rw [hQ]; nofun)]
  congr 1
  exact List.countP_congr fun y hy => by rw [h y (hn.mem_erase_iff.mp hy).1]

/-- An entry whose assertion is not yet so is the one that counts; later entries of its point do not. -/
theorem Part.assertOne_countP (p : PointId) (ps : List PointId) (h : s.conditions[p].by l ≠ v) :
    (allPoints.countP fun q => decide (q ∈ p :: ps) && (s.conditions[q].by l != v)) =
      (allPoints.countP fun q => decide (q ∈ ps) && ((s.assertOne l v p).conditions[q].by l != v)) + 1 := by
  refine countP_eq_succ (List.nodup_finRange 96) (List.mem_finRange p) ?_ ?_ fun q hq => ?_
  · rw [decide_eq_true List.mem_cons_self, bne_iff_ne.mpr h]; rfl
  · rw [Part.assertOne_by, if_pos rfl, bne_self_eq_false, Bool.and_false]
  · rw [Part.assertOne_by, if_neg hq]
    simp only [List.mem_cons, hq, false_or]

/-- The count in the reply is of the points listed whose assertion was not so already (R40, R41). -/
theorem Part.assertAll_snd (l : LinkId) (v : Bool) (ps : List PointId) (s : Part) :
    (s.assertAll l v ps).2 = allPoints.countP fun p => decide (p ∈ ps) && (s.conditions[p].by l != v) := by
  have h (n : Nat) : (ps.foldl (assertEntry l v) (s, n)).2 =
      n + allPoints.countP fun p => decide (p ∈ ps) && (s.conditions[p].by l != v) := by
    induction ps generalizing s n with
    | nil => simp
    | cons p ps ih =>
      rw [List.foldl_cons]
      by_cases hv : s.conditions[p].by l = v
      · have hstep : assertEntry l v (s, n) p = (s, n) := if_pos hv
        rw [hstep, ih]
        congr 1
        refine List.countP_congr fun q _ => ?_
        by_cases hq : q = p
        · subst hq; simp [hv, -Fin.getElem_fin]
        · simp only [List.mem_cons, hq, false_or]
      · have hstep : assertEntry l v (s, n) p = (s.assertOne l v p, n + 1) := by
          unfold assertEntry Part.assertOne
          rw [if_neg hv, if_neg hv]
        rw [hstep, ih, Part.assertOne_countP p ps hv]
        omega
  exact (h 0).trans (Nat.zero_add _)

/-- A point of a checked list is read from the assertions (R36). -/
theorem Part.reading_setBy (c : Condition)
    (h : s.active.points[p].source = .msgAny ∨ s.active.points[p].source = .msg l) :
    s.reading p (c.setBy l v) = (match s.active.points[p].source with
      | .msgAny => v || c.by (otherLink l)
      | _ => v) := by
  unfold Part.reading
  rcases h with h | h <;> rw [h]
  · cases l
    · rfl
    · exact Bool.or_comm ..
  · exact Condition.setBy_by ..

/-- A point either has its assertion changed, and its source read again, or is left as it was. -/
theorem Part.Asserted.cases (h : Part.Asserted l v ps s m) (p : PointId) :
    (p ∉ ps ∨ s.conditions[p].by l = v) ∧ m.conditions[p] = s.conditions[p] ∨
    p ∈ ps ∧ m.conditions[p] =
      { s.conditions[p].setBy l v with abnormal := s.reading p (s.conditions[p].setBy l v) } := by
  by_cases hk : p ∉ ps ∨ s.conditions[p].by l = v
  · exact .inl ⟨hk, h.kept p hk⟩
  · obtain ⟨hp, hv⟩ := not_or.mp hk
    exact .inr ⟨not_not.mp hp, h.changed p (not_not.mp hp) hv⟩

theorem Part.Asserted.by_eq (h : Part.Asserted l v ps s m) (p : PointId) :
    m.conditions[p].by l = if p ∈ ps then v else s.conditions[p].by l := by
  rcases h.cases p with ⟨hk, hc⟩ | ⟨hp, hc⟩ <;> rw [hc]
  · split
    · next hp => exact hk.resolve_left (not_not.mpr hp)
    · rfl
  · rw [if_pos hp, Condition.by_withAbnormal, Condition.setBy_by]

theorem Part.Asserted.by_other (h : Part.Asserted l v ps s m) (p : PointId) :
    m.conditions[p].by (otherLink l) = s.conditions[p].by (otherLink l) := by
  rcases h.cases p with ⟨-, hc⟩ | ⟨-, hc⟩ <;> rw [hc]
  rw [Condition.by_withAbnormal, Condition.setBy_by_other]

/-- The Sequence Engine's copies follow the changed conditions, and they alone (R4, R37). -/
theorem Part.Asserted.abnormal (h : Part.Asserted l v ps s m) (p : PointId) : m.alarm.points[p].abnormal =
    if m.conditions[p].abnormal = s.conditions[p].abnormal then s.alarm.points[p].abnormal
    else m.conditions[p].abnormal := by
  rw [h.alarm]
  refine Alarm.deliverChanges_abnormal _ _ fun hne => List.mem_eraseDups.mpr ?_
  by_contra hp
  exact hne (by rw [h.kept p (.inl hp)])

/-- The row of Raise or Clear on a list that passes its check: the assertions, the relays settled, and the count (R39 to R41). -/
theorem exec_assert {s : State} {f : Frame} (h : s.Ready l (if v then .raise else .clear) f)
    (hc : (s.begin l f).checkList l 1 f.body = .ok ps) :
    exec (if v then .raise l else .clear l) s =
      s.becomes ((((s.begin l f).assertAll l v ps).1.settleRelays).conclude l f
        (okAnswer (be 1 ((s.begin l f).assertAll l v ps).2))) := by
  have hb : assertBody v l f.body (s.begin l f) =
      (((s.begin l f).assertAll l v ps).1.settleRelays, okAnswer (be 1 ((s.begin l f).assertAll l v ps).2)) := by
    unfold assertBody
    rw [hc]
  cases v
  · exact State.run_ready h _ hb
  · exact State.run_ready h _ hb

/-- Settles O19: the checked list as `Part.Asserted` says, in the part whose link has begun its frame. -/
theorem raiseAndClearSetTheAssertions : Obligations.RaiseAndClearSetTheAssertions := by
  unfold Obligations.RaiseAndClearSetTheAssertions
  intro s l v f ps h hbody hsrc
  have hexec := exec_assert h (Part.checkList_ok (s.begin l f) l ps 1 f.body hbody (by rwa [Part.begin_active]))
  rw [Part.assertAll_snd, Part.begin_conditions] at hexec
  have hm := Part.assertAll_asserted l v ps (s.begin l f)
  generalize ((s.begin l f).assertAll l v ps).1 = m at hexec hm
  have hby := hm.by_eq
  have hother := hm.by_other
  have hcopy := hm.abnormal
  obtain ⟨hframe, hchanged, hkept, halarm⟩ := hm
  simp only [Part.begin_conditions, Part.begin_alarm, Part.begin_env] at hby hother hcopy hchanged hkept halarm
  refine ⟨m.settleRelays, hexec, hby, hother, fun p hp hv => ?_, hkept, fun p hp => (hcopy p).trans (if_pos hp),
    fun p hp => (hcopy p).trans (if_neg hp), halarm, ?_⟩
  · have hread := Part.reading_setBy (s := s.begin l f) (v := v) s.conditions[p]
      (show (s.begin l f).active.points[p].source = .msgAny ∨ (s.begin l f).active.points[p].source = .msg l by
        rw [Part.begin_active]; exact hsrc p hp)
    rw [Part.begin_active] at hread
    exact (congrArg Condition.abnormal (hchanged p hp hv)).trans hread
  · rw [← Part.begin_panel s.toPart l f]
    generalize s.begin l f = t at hframe
    obtain ⟨c, a, rfl⟩ : ∃ c a, m = { t with conditions := c, alarm := a } := ⟨_, _, hframe⟩
    rfl

end Sys2Proof.Machine
end


section
/-! SUPPORT. Shelve Point: the place of an entry, the time it shows, and the two answers that shelve (R62 to R65, R70). -/

namespace Sys2Proof.Machine

variable {s : Part} {l : LinkId} {e : Env} {a b : Alarm} {p : PointId} {m : Nat}

/-! ## The place of an entry (R62) -/

/-- In a table in order, an entry goes between those with its expiry or an earlier one and the later ones. -/
theorem insertEntry_place (now : Nat) (n : ShelfEntry) {es : List ShelfEntry}
    (h : (es.map fun m => timeLeft now m.expiry).Pairwise (· ≤ ·)) : ∃ before behind : List ShelfEntry,
      es = before ++ behind ∧ insertEntry now n es = before ++ n :: behind ∧
      (∀ m ∈ before, timeLeft now m.expiry ≤ timeLeft now n.expiry) ∧
      (∀ m ∈ behind, timeLeft now n.expiry < timeLeft now m.expiry) := by
  induction es with
  | nil => exact ⟨[], [], rfl, rfl, nofun, nofun⟩
  | cons k es ih =>
    obtain ⟨hk, hes⟩ := List.pairwise_cons.mp h
    by_cases hle : timeLeft now k.expiry ≤ timeLeft now n.expiry
    · obtain ⟨before, behind, rfl, hins, hearlier, hlater⟩ := ih hes
      refine ⟨k :: before, behind, rfl, ?_, List.forall_mem_cons.mpr ⟨hle, hearlier⟩, hlater⟩
      rw [insertEntry, if_pos hle, hins, List.cons_append]
    · have hlt := Nat.lt_of_not_le hle
      exact ⟨[], k :: es, rfl, if_neg hle, nofun,
        List.forall_mem_cons.mpr ⟨hlt, fun m hm => hlt.trans_le (hk _ (List.mem_map_of_mem hm))⟩⟩

/-! ## The reply (R63, R64) -/

/-- A shelving shows its whole time as it is made: no rounding takes part (R63). -/
theorem shelfSeconds_minutes (now : Nat) (h1 : 1 ≤ m) (h2 : m ≤ 1440) :
    shelfSeconds now (clockAfter now (m * 60000)) = m * 60 := by
  have hahead : aheadOf now (clockAfter now (m * 60000)) = m * 60000 :=
    clockAfter_ahead now _ (by unfold Config.clockModulus; omega)
  rw [shelfSeconds_eq, timeLeft_eq (by omega), hahead]
  omega

/-- The reply data once the entry is in the table, the elapsed count still that of its making (11.4). -/
theorem Part.shelveData_newEntry {t : Part} (h : t.alarm.journal.elapsed = a.journal.elapsed) (p : PointId)
    (o : ShelfOrigin) (h1 : 1 ≤ m) (h2 : m ≤ 1440) :
    t.shelveData p (a.newEntry p o m).expiry = be 1 p.val ++ be 4 (m * 60) ++ be 1 t.alarm.shelf.length := by
  unfold Part.shelveData Alarm.newEntry
  rw [h, shelfSeconds_minutes _ h1 h2]

/-! ## The two answers (R64, R65, R70) -/

theorem Alarm.Moved.elapsed {u : PointState} {cause : Cause} (h : Alarm.Moved e p u cause a b) :
    b.journal.elapsed = a.journal.elapsed := by
  rw [h.journal, Journal.appendAll_elapsed]

/-- Shelving is the move to SHELVED once the entry is placed and the chatter record cleared. -/
theorem Alarm.shelve_moved (e : Env) (n : ShelfEntry) (cause : Cause) (a : Alarm) :
    Alarm.Moved e n.point .shelved cause ((a.placeEntry n).setChatter n.point {}) (a.shelve e n cause) :=
  Alarm.move_moved e n.point .shelved cause _ (.inl nofun)

/-- Shelve Point's answer on a point not on the shelf, with an entry free (R64). -/
theorem shelvePointBody_shelves {b : List Byte} (hp : field b 0 1 = p.val) (hm : field b 1 2 = m) (h1 : 1 ≤ m)
    (h2 : m ≤ 1440) (hd : s.alarm.points[p].state ≠ .disabled) (hs : s.alarm.points[p].state ≠ .shelved)
    (hf : s.alarm.shelf.length < Config.shelfSize) :
    shelvePointBody l b s =
      (s.withAlarm (s.alarm.shelve (s.env (.link l)) (s.alarm.newEntry p (.link l) m) .shelve),
        okAnswer (be 1 p.val ++ be 4 (m * 60) ++
          be 1 (s.alarm.shelve (s.env (.link l)) (s.alarm.newEntry p (.link l) m) .shelve).shelf.length)) := by
  have hdata := Part.shelveData_newEntry (a := s.alarm)
    (t := s.withAlarm (s.alarm.shelve (s.env (.link l)) (s.alarm.newEntry p (.link l) m) .shelve))
    (Alarm.shelve_moved ..).elapsed p (.link l) h1 h2
  unfold shelvePointBody
  rw [hp, point?_val, hm]
  dsimp only
  rw [if_neg (by rw [within_eq_true h1 h2]; nofun)]
  split
  · next h => exact absurd h hd
  · next h => exact absurd h hs
  all_goals exact (if_neg (Nat.not_le.mpr hf)).trans (congrArg (fun d => (_, okAnswer d)) hdata)

/-- Shelve Point's answer on a point already on the shelf: its entry is replaced and nothing else changes (R65). -/
theorem shelvePointBody_extends {b : List Byte} (hp : field b 0 1 = p.val) (hm : field b 1 2 = m) (h1 : 1 ≤ m)
    (h2 : m ≤ 1440) (hs : s.alarm.points[p].state = .shelved) :
    shelvePointBody l b s =
      ({ s with alarm := s.alarm.placeEntry (s.alarm.newEntry p (.link l) m) },
        { status := .ok, flags := { extended := true },
          data := be 1 p.val ++ be 4 (m * 60) ++
            be 1 (s.alarm.placeEntry (s.alarm.newEntry p (.link l) m)).shelf.length }) := by
  have hdata := Part.shelveData_newEntry (a := s.alarm)
    (t := { s with alarm := s.alarm.placeEntry (s.alarm.newEntry p (.link l) m) }) rfl p (.link l) h1 h2
  unfold shelvePointBody
  rw [hp, point?_val, hm]
  dsimp only
  rw [if_neg (by rw [within_eq_true h1 h2]; nofun), hs]
  dsimp only
  rw [hdata]

/-- Settles O29: the place of an entry, then the request on a point not on the shelf and on a point already there. -/
theorem shelvePointAddsOrReplacesAnEntry : Obligations.ShelvePointAddsOrReplacesAnEntry := by
  unfold Obligations.ShelvePointAddsOrReplacesAnEntry
  refine ⟨fun now n es h => insertEntry_place now n h, fun s l f p m h hp hm h1 h2 hd hs hf => ?_,
    fun s l f p m h hp hm h1 h2 hs => ?_⟩
  · refine ⟨s.alarm.shelve (s.env (.link l)) (s.alarm.newEntry p (.link l) m) .shelve, ?_,
      Alarm.shelve_moved _ (s.alarm.newEntry p (.link l) m) ..⟩
    rw [← Part.begin_alarm s.toPart l f] at hd hs hf
    have hbody := shelvePointBody_shelves (l := l) hp hm h1 h2 hd hs hf
    rw [Part.begin_env, Part.begin_alarm] at hbody
    exact State.run_ready h shelvePointBody hbody
  · refine ⟨_, rfl, ?_⟩
    rw [← Part.begin_alarm s.toPart l f] at hs
    have hbody := shelvePointBody_extends (l := l) hp hm h1 h2 hs
    rw [Part.begin_alarm] at hbody
    exact State.run_ready h shelvePointBody hbody

end Sys2Proof.Machine
end


section
/-! SUPPORT. A channel's sound, its three timers, and where a chirp request is placed (R79, R80, R81, R89 to R94). -/

namespace Sys2Proof.Machine

/-! ## The output (R79) -/

theorem Channel.sounding_iff (c : Channel) : c.sounding = true ↔ c.mode ≠ .idle ∧ c.phaseOn = true := by
  simp [Channel.sounding]

theorem Channel.not_sounding_iff (c : Channel) : ¬c.sounding = true ↔ c.mode = .idle ∨ c.phaseOn = false := by
  rw [Channel.sounding_iff, not_and_or, not_not, Bool.not_eq_true]

theorem Channel.output_silent (now : Nat) {c : Channel} (h : c.mode = .idle ∨ c.phaseOn = false) :
    c.output now = none := if_neg ((Channel.not_sounding_iff c).mpr h)

theorem Channel.output_sounding (now : Nat) {c : Channel} (hm : c.mode ≠ .idle) (hp : c.phaseOn = true) :
    c.output now = some (c.pitchHz, c.heard now) := if_pos ((Channel.sounding_iff c).mpr ⟨hm, hp⟩)

theorem Channel.heard_settled (now : Nat) {c : Channel} (h : c.held = none) : c.heard now = c.loudness := by
  unfold Channel.heard
  rw [h]

theorem Channel.heard_held (now : Nat) {c : Channel} {v changed : Nat} (h : c.held = some (v, changed)) :
    c.heard now = if c.period now = c.period changed then v else c.loudness := by
  unfold Channel.heard
  rw [h]

/-! ## The wave (R79, log 22) -/

/-- A channel that goes on sounding at its pitch keeps its wave, and a new loudness waits for the next period. -/
theorem Channel.carry_runsOn (now : Nat) {c d : Channel} (hm : c.mode ≠ .idle) (hp : c.phaseOn = true)
    (hz : c.pitchHz = d.pitchHz) : c.carry now d = { d with
      waveStart := c.waveStart, held := if d.loudness = c.loudness then c.held else some (c.heard now, now) } :=
  if_pos ⟨(Channel.sounding_iff c).mpr ⟨hm, hp⟩, hz⟩

/-- After silence, or at another pitch, a wave of its own begins. -/
theorem Channel.carry_begins (now : Nat) {c d : Channel} (h : c.mode = .idle ∨ c.phaseOn = false ∨ c.pitchHz ≠ d.pitchHz) :
    c.carry now d = { d with waveStart := now, held := none } := by
  refine if_neg fun ⟨hs, hz⟩ => ?_
  obtain ⟨hm, hp⟩ := (Channel.sounding_iff c).mp hs
  rcases h with h | h | h
  · exact hm h
  · rw [hp] at h; cases h
  · exact h hz

/-! ## The phases and the loudness steps (R80, R81) -/

theorem nextPitch_eq (hasB : Bool) (p : PitchSel) :
    nextPitch hasB p = if hasB = true ∧ p = .a then .b else .a := by
  cases hasB <;> cases p <;> rfl

/-- An on phase with an off time after it ends in the off phase. -/
theorem Channel.nextPhase_off (now : Nat) {c : Channel} (hp : c.phaseOn = true) (ho : c.copy.cadence.2.1 ≠ 0) :
    c.nextPhase now = { c with phaseOn := false, cadence := some (clockAfter now c.copy.cadence.2.1) } :=
  if_pos ⟨hp, ho⟩

/-- An off phase, and an on phase with no off time after it, end in the next on phase. -/
theorem Channel.nextPhase_on (now : Nat) {c : Channel} (h : c.phaseOn = false ∨ c.copy.cadence.2.1 = 0) :
    c.nextPhase now = c.carry now { c with
      phaseOn := true
      pitch := if c.copy.cadence.2.2 = true ∧ c.pitch = .a then .b else .a
      cadence := some (clockAfter now c.copy.cadence.1) } := by
  have hn : ¬(c.phaseOn = true ∧ c.copy.cadence.2.1 ≠ 0) := fun ⟨hp, ho⟩ =>
    h.elim (fun hf => by rw [hp] at hf; cases hf) ho
  unfold Channel.nextPhase
  rw [if_neg hn, Channel.nextOn, nextPitch_eq]

theorem Channel.escalate_level (now : Nat) {c : Channel} {t : LevelTone} (h : c.copy = .level t) :
    c.escalate now = (let v := if t.startLoudness < t.endLoudness then c.loudness + 1 else c.loudness - 1
      c.carry now { c with
        loudness := v
        escalation := if v = t.endLoudness then none else some (clockAfter now (t.stepInterval * 1000)) }) := by
  unfold Channel.escalate
  rw [h]

/-! ## The timers' rows, when due -/

theorem Timer.due_some {now d : Nat} (h : timeLeft now d = 0) : Timer.due now (some d) = true := decide_eq_true h

section
variable {s : State} {c : ChanId} {d : Nat}

theorem exec_cadencePhaseExpiry_due (hd : timeLeft s.alarm.journal.elapsed d = 0) (h : (s.channel c).cadence = some d) :
    exec (.cadencePhaseExpiry c) s =
      s.becomes (s.setChannel c ((s.channel c).nextPhase s.alarm.journal.elapsed)) :=
  congrArg s.becomes (if_pos (by rw [h]; exact Timer.due_some hd))

theorem exec_escalationStep_due (hd : timeLeft s.alarm.journal.elapsed d = 0) (h : (s.channel c).escalation = some d) :
    exec (.escalationStep c) s =
      s.becomes (s.setChannel c ((s.channel c).escalate s.alarm.journal.elapsed)) :=
  congrArg s.becomes (if_pos (by rw [h]; exact Timer.due_some hd))

theorem exec_chirpTimerExpiry_due (hd : timeLeft s.alarm.journal.elapsed d = 0) (h : (s.channel c).chirpTimer = some d) :
    exec (.chirpTimerExpiry c) s = s.becomes (s.setChannel c (s.channel c).goIdle) :=
  congrArg s.becomes (if_pos (by rw [h]; exact Timer.due_some hd))

end

/-- Settles O33: the output, the wave, and each timer's row when it is due. -/
theorem channelTimersExpire : Obligations.ChannelTimersExpire := by
  unfold Obligations.ChannelTimersExpire
  refine ⟨?_, fun now c d => ⟨Channel.carry_runsOn now, Channel.carry_begins now⟩, ?_⟩
  · intro now c hz period
    have hpitch : c.pitchHz = hz := by
      unfold Channel.pitchHz hz
      cases c.copy <;> cases c.pitch <;> rfl
    have hperiod (n : Nat) : c.period n = period n := by
      unfold Channel.period Config.clockModulus
      rw [hpitch]
    refine ⟨Channel.output_silent now, fun hm hp hh => ?_, fun v changed hm hp hh => ?_⟩
    · rw [Channel.output_sounding now hm hp, Channel.heard_settled now hh, hpitch]
    · rw [Channel.output_sounding now hm hp, Channel.heard_held now hh, hpitch, hperiod, hperiod]
  · intro s c d hd x now
    refine ⟨fun ht hp ho => ?_, fun ht h => ?_, fun t ht hcopy => ?_, exec_chirpTimerExpiry_due hd⟩
    · exact (exec_cadencePhaseExpiry_due hd ht).trans (by rw [Channel.nextPhase_off now hp ho])
    · exact (exec_cadencePhaseExpiry_due hd ht).trans (by rw [Channel.nextPhase_on now h])
    · exact (exec_escalationStep_due hd ht).trans (by rw [Channel.escalate_level now hcopy])

/-! ## Placing a chirp (R89, R91, R93) -/

section
variable {x : Sounder} (now : Nat)

theorem Sounder.chirp_extends_ch0 (h : x.ch0.mode = .chirp) :
    x.chirp now = ({ x with ch0 := x.ch0.extendChirp now x.tones.chirp }, .extended .ch0) :=
  if_pos ((Channel.chirping_iff _).mpr h)

theorem Sounder.chirp_extends_ch1 (h0 : x.ch0.mode ≠ .chirp) (h1 : x.ch1.mode = .chirp) :
    x.chirp now = ({ x with ch1 := x.ch1.extendChirp now x.tones.chirp }, .extended .ch1) :=
  (if_neg (mt (Channel.chirping_iff _).mp h0)).trans (if_pos ((Channel.chirping_iff _).mpr h1))

theorem Sounder.chirp_starts (h0 : x.ch0.mode ≠ .chirp) (h1 : x.ch1.mode = .idle) :
    x.chirp now = ({ x with ch1 := Channel.startChirp now x.tones.chirp }, .started .ch1) := by
  have hn : x.ch1.mode ≠ .chirp := by rw [h1]; nofun
  unfold Sounder.chirp
  rw [if_neg (mt (Channel.chirping_iff _).mp h0), if_neg (mt (Channel.chirping_iff _).mp hn), if_pos h1]

theorem Sounder.chirp_dropped (h0 : x.ch0.mode ≠ .chirp) (h1 : x.ch1.mode ≠ .chirp) (hi : x.ch1.mode ≠ .idle) :
    x.chirp now = ({ x with dropped := cap16 (x.dropped + 1) }, .dropped) := by
  unfold Sounder.chirp
  rw [if_neg (mt (Channel.chirping_iff _).mp h0), if_neg (mt (Channel.chirping_iff _).mp h1), if_neg hi]

end

/-- A playing chirp extended sounds on at an unchanged pitch, and begins a new wave otherwise (R91, log 22). -/
theorem Channel.extendChirp_eq (now : Nat) (t : ChirpTone) {c : Channel} (h : c.mode = .chirp) :
    c.extendChirp now t = if c.phaseOn = true ∧ c.pitchHz = t.pitch then { Channel.startChirp now t with
        waveStart := c.waveStart, held := if t.loudness = c.loudness then c.held else some (c.heard now, now) }
      else Channel.startChirp now t := by
  unfold Channel.extendChirp
  split
  · next hc => exact Channel.carry_runsOn now (by rw [h]; nofun) hc.1 hc.2
  · next hc =>
    refine Channel.carry_begins now (.inr ?_)
    rw [← Bool.not_eq_true]
    exact not_and_or.mp hc

/-- The Chirp request's row: the chirp is placed, and the reply shows where (R94). -/
theorem exec_chirp {s : State} {l : LinkId} {f : Frame} (h : s.Ready l .chirp f) {y : Sounder} {o : ChirpOutcome}
    (hy : s.alarm.sounder.chirp s.alarm.journal.elapsed = (y, o)) :
    exec (.chirp l) s = s.becomes
      (({ s.begin l f with alarm := { s.alarm with sounder := y } } : Part).conclude l f (chirpAnswer o)) := by
  refine State.run_ready h chirpBody ?_
  unfold chirpBody Part.chirp
  rw [Part.begin_alarm, hy]

/-- Settles O31: a chirp is extended where it plays, else started on channel 1, else dropped. -/
theorem chirpIsPlacedByOneRule : Obligations.ChirpIsPlacedByOneRule := by
  unfold Obligations.ChirpIsPlacedByOneRule
  intro s l f h x now tone start extended after
  have hext {c : Channel} (hc : c.mode = .chirp) : c.extendChirp now tone = extended c :=
    Channel.extendChirp_eq now tone hc
  refine ⟨fun h0 => ?_, fun h0 h1 => ?_, fun h0 h1 => ?_, fun h0 h1 hi => ?_⟩
  · exact exec_chirp h ((Sounder.chirp_extends_ch0 now h0).trans (by rw [hext h0]))
  · exact exec_chirp h ((Sounder.chirp_extends_ch1 now h0 h1).trans (by rw [hext h1]))
  · exact exec_chirp h (Sounder.chirp_starts now h0 h1)
  · exact exec_chirp h (Sounder.chirp_dropped now h0 h1 hi)

end Sys2Proof.Machine
end

section
/-! SUPPORT. The assignment, channel by channel, and what a claim change leaves behind (R83, R84, R86, R99, R100). -/

namespace Sys2Proof.Machine

/-! ## Starting a level (R81, R85) -/

theorem Channel.startLevel_eq (now : Nat) (v : Level) (t : LevelTone) : Channel.startLevel now t v =
    ⟨.level v, .level t, .a, t.startLoudness, true, some (clockAfter now t.onTime),
      if t.stepInterval = 0 ∨ t.startLoudness = t.endLoudness then none else some (clockAfter now (t.stepInterval * 1000)),
      none, now, none⟩ := by
  unfold Channel.startLevel
  simp only [ne_eq, ← not_or, ite_not]

/-! ## Targets (R84, R86) -/

/-- W is the same where the same lists are empty (R83). -/
theorem Sounder.w_eq_iff (y s : Sounder) : y.w = s.w ↔ (y.claims1 = [] ↔ s.claims1 = []) ∧
    (y.claims2 = [] ↔ s.claims2 = []) ∧ (y.claims3 = [] ↔ s.claims3 = []) := by
  have h (cs ds : List Claim) : (!cs.isEmpty) = (!ds.isEmpty) ↔ (cs = [] ↔ ds = []) := by
    rw [Bool.not_inj_iff, Bool.eq_iff_iff, List.isEmpty_iff, List.isEmpty_iff]
  simp only [Sounder.w, LevelSet.mk.injEq, h]

/-- The highest level of a set. -/
theorem LevelSet.descending_head? (w : LevelSet) : w.descending.head? =
    if w.urgent then some .urgent else if w.high then some .high else if w.low then some .low else none := by
  obtain ⟨low, high, urgent⟩ := w
  revert low high urgent
  decide

/-- The second-highest level of a set. -/
theorem LevelSet.descending_getElem?_one (w : LevelSet) : w.descending[1]? =
    if w.urgent then (if w.high then some .high else if w.low then some .low else none)
    else if w.high ∧ w.low then some .low else none := by
  obtain ⟨low, high, urgent⟩ := w
  revert low high urgent
  decide

/-- Channel 0's target is the highest level with a claim. -/
theorem Sounder.target0_eq (s : Sounder) : s.target0 = if s.claims3 ≠ [] then some .urgent
    else if s.claims2 ≠ [] then some .high else if s.claims1 ≠ [] then some .low else none := by
  unfold Sounder.target0
  rw [LevelSet.descending_head?]
  simp only [Sounder.w, Bool.not_eq_true', List.isEmpty_eq_false_iff]

/-- Channel 1's target is the second-highest level with a claim, with DUAL on. -/
theorem Sounder.target1_eq (s : Sounder) : s.target1 = if s.dual = false then none
    else if s.claims3 ≠ [] then (if s.claims2 ≠ [] then some .high else if s.claims1 ≠ [] then some .low else none)
    else if s.claims2 ≠ [] ∧ s.claims1 ≠ [] then some .low else none := by
  unfold Sounder.target1
  rw [LevelSet.descending_getElem?_one]
  simp only [Sounder.w, Bool.not_eq_true', List.isEmpty_eq_false_iff]
  cases s.dual <;> rfl

/-! ## A channel brought to its target (the table of R84) -/

/-- A channel with a target plays on where it plays it already, unless its profile has changed; any other starts it. -/
theorem Channel.bring_some (now : Nat) (t : ToneSet) (restart : LevelSet) (v : Level) (c : Channel) :
    c.bring now t restart (some v) =
      if c.mode = .level v ∧ restart.has v = false then c else Channel.startLevel now (t.level v) v := by
  unfold Channel.bring
  cases hm : c.mode with
  | level l =>
    simp only [ChannelMode.level.injEq]
    by_cases hl : l = v
    · rw [hl]
    · simp only [hl, false_and, if_false]
  | idle => simp
  | chirp => simp
  | test => simp

/-- A channel with no target goes IDLE, but for one that is IDLE already or plays a chirp. -/
theorem Channel.bring_none (now : Nat) (t : ToneSet) (restart : LevelSet) (c : Channel) :
    c.bring now t restart none = if c.mode = .chirp ∨ c.mode = .idle then c else c.goIdle := by
  unfold Channel.bring
  cases hm : c.mode <;> simp

/-! ## Claim changes (R83, R96, R100) -/

/-- A claim change takes the point off every list and puts it at the end of its level's. -/
theorem Sounder.claimAt_eq (s : Sounder) (p : PointId) (level : Option Level) (stamp : Nat) :
    let list (v : Level) (cs : List Claim) : List Claim :=
      cs.filter (fun c => c.point ≠ p) ++ (if level = some v then [⟨p, stamp⟩] else [])
    s.claimAt p level stamp = { s with
      claims1 := list .low s.claims1, claims2 := list .high s.claims2, claims3 := list .urgent s.claims3 } := by
  cases level with
  | none => simp [Sounder.claimAt, Sounder.endClaim, withoutPoint]
  | some v => cases v <;> simp [Sounder.claimAt, Sounder.beginClaim, Sounder.endClaim, withoutPoint]

/-- A claim change evaluates the assignment exactly where W changes, nothing defers it and no test is active. -/
theorem Sounder.passClaim_of_ne (test defer : Bool) (now : Nat) {p : PointId} {level : Option Level} (stamp : Nat)
    {s : Sounder} (h : s.claimLevel p ≠ level) : s.passClaim test defer now p level stamp =
      if (s.claimAt p level stamp).w = s.w ∨ defer = true ∨ test = true then s.claimAt p level stamp
      else (s.claimAt p level stamp).assign now {} := by
  have hpass : s.passClaim test defer now p level stamp =
      if (s.claimAt p level stamp).w = s.w ∨ defer = true then s.claimAt p level stamp
      else (s.claimAt p level stamp).evaluate test now {} := if_neg h
  rw [hpass]
  unfold Sounder.evaluate
  cases test
  · simp only [Bool.false_eq_true, or_false, if_false]
  · simp only [or_true, if_true, ite_self]

/-- Settles O32: a level's start, the two targets and how a channel is brought to one, and the claim changes. -/
theorem assignmentBringsChannelsToTheirTargets : Obligations.AssignmentBringsChannelsToTheirTargets := by
  unfold Obligations.AssignmentBringsChannelsToTheirTargets
  refine ⟨Channel.startLevel_eq, ?_, ?_⟩
  · intro now restart s top second changed brought
    have hchanged (v : Level) : restart.has v = changed v := by cases v <;> rfl
    have hbring (target : Option Level) (c : Channel) : c.bring now s.tones restart target = brought target c := by
      cases target with
      | none => exact Channel.bring_none ..
      | some v => rw [Channel.bring_some, hchanged]
    unfold Sounder.assign
    rw [hbring, hbring, Sounder.target0_eq, Sounder.target1_eq]
  · intro test defer now p level stamp s list y
    refine ⟨fun h => if_pos h, fun h => ?_⟩
    have hlists : s.claimAt p level stamp = y := Sounder.claimAt_eq s p level stamp
    rw [Sounder.passClaim_of_ne test defer now stamp h, hlists]
    exact if_congr (or_congr_left (Sounder.w_eq_iff y s)) rfl rfl

end Sys2Proof.Machine
end

section
/-! SUPPORT. The Panel Unit: the test set and the message tests, the keys, the lamps (R103 to R112). -/

namespace Sys2Proof.Machine

/-! ## The test set (R96, R97, R107) -/

section
variable {s : Part} {t : TestSet}

/-- A record is appended and both channels start TEST: nothing else changes. -/
theorem Part.append_soundTest (s : Part) (r : RecordBody) : (s.append r).soundTest = { s with
    alarm := { s.alarm with
      journal := s.alarm.journal.append r
      sounder := s.alarm.sounder.startTest s.alarm.journal.elapsed } } := by
  unfold Part.soundTest Part.append Alarm.append
  simp only [Journal.append_elapsed]

theorem Part.changeTestSet_keeps (o : Origin) (h : s.panel.testSet.active = t.active) :
    s.changeTestSet o t = s.setTestSet t := by
  unfold Part.changeTestSet
  rw [h]
  cases t.active <;> rfl

theorem Part.changeTestSet_begins (o : Origin) (h : s.panel.testSet.active = false) (ht : t.active = true) :
    s.changeTestSet o t = ((s.setTestSet t).append { kind := .testBegin, origin := o }).soundTest.settleRelays := by
  unfold Part.changeTestSet
  rw [h, ht]

theorem Part.changeTestSet_ends (o : Origin) (h : s.panel.testSet.active = true) (ht : t.active = false) :
    s.changeTestSet o t = ((s.setTestSet t).append { kind := .testEnd, origin := o }).soundLevels.settleRelays := by
  unfold Part.changeTestSet
  rw [h, ht]

@[simp] theorem Part.changeTestSet_testSet (o : Origin) (t : TestSet) (s : Part) :
    (s.changeTestSet o t).panel.testSet = t := by
  rcases Part.changeTestSet_cases o t s with ⟨-, h⟩ | ⟨-, b, h⟩ | ⟨-, b, h⟩ <;> rw [h] <;> rfl

end

/-- Settles O34: by where the set stands before and after. -/
theorem testSetChangesAreJournaledAndSounded : Obligations.TestSetChangesAreJournaledAndSounded := by
  unfold Obligations.TestSetChangesAreJournaledAndSounded
  intro s o t now x start set
  refine ⟨Part.changeTestSet_keeps o, fun h ht => ?_, fun h ht => ?_⟩
  · rw [Part.changeTestSet_begins o h ht, Part.append_soundTest]
    rfl
  · rw [Part.changeTestSet_ends o h ht, Part.append_soundLevels]
    rfl

/-! ## Message tests (R108, R109) -/

@[simp] theorem Part.setTestTimer_testSet (s : Part) (l : LinkId) (t : Timer) :
    (s.setTestTimer l t).panel.testSet = s.panel.testSet := Panel.setTestTimer_testSet ..

section
variable {s : Part} {l : LinkId} {f : Frame}

/-- The link joins the test set in the part that has begun its frame. -/
theorem testBeginBody_joins {d : Nat} (hd : field f.body 0 1 = d) (h1 : 1 ≤ d) (h2 : d ≤ 60) :
    testBeginBody l f.body (s.begin l f) =
      (((s.begin l f).changeTestSet (.link l) (s.panel.testSet.setLink l true)).setTestTimer l
          (some (clockAfter s.alarm.journal.elapsed (d * 1000))),
        { status := .ok, flags := { extended := s.panel.testSet.hasLink l },
          data := be 1 (s.panel.testSet.setLink l true).code ++ be 1 d }) := by
  unfold testBeginBody
  simp only [hd, within_eq_true h1 h2, Bool.true_eq_false, if_false, Part.begin_panel, Part.begin_alarm,
    Part.setTestTimer_testSet, Part.changeTestSet_testSet]

theorem testBeginBody_range (h : field f.body 0 1 = 0 ∨ 60 < field f.body 0 1) :
    testBeginBody l f.body s = (s, refuseRange 1 (field f.body 0 1)) :=
  if_pos (within_eq_false.mpr (h.imp_left Nat.lt_one_iff.mpr))

theorem testEndBody_leaves (h : s.panel.testSet.hasLink l = true) : testEndBody l f.body (s.begin l f) =
    (((s.begin l f).changeTestSet (.link l) (s.panel.testSet.setLink l false)).setTestTimer l none,
      okAnswer (be 1 (s.panel.testSet.setLink l false).code)) := by
  unfold testEndBody Part.leaveTest
  simp only [Part.begin_panel, h, Bool.true_eq_false, if_false, Part.setTestTimer_testSet, Part.changeTestSet_testSet]

theorem testEndBody_nothing (h : s.panel.testSet.hasLink l = false) :
    testEndBody l f.body (s.begin l f) = (s.begin l f, refuse .nothingPending) :=
  if_pos (by rw [Part.begin_panel]; exact h)

end

/-- Settles O35: the two requests' bodies, and the timer's row when it is due. -/
theorem messageTestsBeginAndEnd : Obligations.MessageTestsBeginAndEnd := by
  unfold Obligations.MessageTestsBeginAndEnd
  intro s l f
  refine ⟨fun d h hd h1 h2 => ?_, fun h hr => ?_, fun h hl => ?_, fun h hl => ?_, fun d ht hd => ?_⟩
  · exact State.run_ready h testBeginBody (testBeginBody_joins hd h1 h2)
  · exact State.run_answered h testBeginBody (testBeginBody_range hr)
  · exact State.run_ready h testEndBody (testEndBody_leaves hl)
  · exact State.run_answered h testEndBody (testEndBody_nothing hl)
  · exact congrArg s.becomes (if_pos (by rw [ht]; exact Timer.due_some hd))

/-! ## Key samples (R103) -/

/-- A key's qualifier put where it stands changes nothing. -/
theorem Part.setKey_key (s : Part) (k : KeyId) : s.setKey k (s.panel.key k) = s := by
  cases k <;> rfl

theorem KeyQualifier.sample_agrees {q : KeyQualifier} {w : Wire} (now : Nat) (h : q.raw = w) : q.sample now w = q :=
  if_pos h.symm

theorem KeyQualifier.sample_differs {q : KeyQualifier} {w : Wire} (now : Nat) (h : q.raw ≠ w) :
    q.sample now w = { q with raw := w, steady := some (clockAfter now 20) } :=
  if_neg h.symm

theorem exec_keySample_due {s : State} {k : KeyId} (w : Wire)
    (h : Timer.due s.alarm.journal.elapsed (s.keyLine k).sample = true) :
    exec (.keySample k w) s = s.becomes ((s.setKeyLine k ⟨w, some (clockAfter s.alarm.journal.elapsed 1)⟩).setKey k
      ((s.panel.key k).sample s.alarm.journal.elapsed w)) :=
  congrArg s.becomes (if_pos h)

/-! ## Presses and releases (R104, R105, R106) -/

/-- The part once an accepted press has its record, and its chirp where key chirp is on (R104). -/
def Part.keyed (k : KeyId) (s : Part) : Part :=
  if s.active.global.keyChirp then (s.append { kind := .key, origin := .panel, detail := some (keyCode k) }).chirp.1
  else s.append { kind := .key, origin := .panel, detail := some (keyCode k) }

section
variable {s : Part} {k : KeyId}

theorem Part.keyed_panel (k : KeyId) (s : Part) : (s.keyed k).panel = s.panel := by
  unfold Part.keyed
  split <;> rfl

theorem Part.keyed_env (k : KeyId) (o : Origin) (s : Part) : (s.keyed k).env o = s.env o := by
  unfold Part.keyed
  split <;> rfl

theorem Part.setKey_testSet (s : Part) (k : KeyId) (q : KeyQualifier) : (s.setKey k q).panel.testSet = s.panel.testSet :=
  Panel.setKey_testSet ..

theorem Part.setKey_env (s : Part) (k : KeyId) (q : KeyQualifier) (o : Origin) : (s.setKey k q).env o = s.env o := by
  unfold Part.env
  rw [Part.setKey_testSet]
  rfl

theorem Part.keyPressed_locked (h : s.active.global.lock k = true) : s.keyPressed k = s := if_pos h

theorem Part.keyPressed_accepted (h : s.active.global.lock k = false) : s.keyPressed k = (s.keyed k).keyAction k :=
  if_neg (Bool.eq_false_iff.mp h)

/-- The action of a key, on the alarms with the relays settled, or on the test set. -/
theorem Part.keyAction_eq (k : KeyId) {e : Env} {t : TestSet} (he : s.env .panel = e) (ht : s.panel.testSet = t) :
    s.keyAction k = (match k with
      | .ack => s.withAlarm (s.alarm.ackAll e).1
      | .silence => s.withAlarm (s.alarm.silence e).1
      | .reset => s.withAlarm (s.alarm.resetAll e).1
      | .test => s.changeTestSet .panel { t with key := true }) := by
  subst he ht
  cases k <;> rfl

theorem Part.keyReleased_eq (k : KeyId) (s : Part) : s.keyReleased k = if k = .test ∧ s.panel.testSet.key = true
    then s.changeTestSet .panel { s.panel.testSet with key := false } else s := by
  cases k <;> simp [Part.keyReleased]

theorem Part.keySteady_press (hr : (s.panel.key k).raw = .low) (hp : (s.panel.key k).pressed = false) :
    s.keySteady k = (s.setKey k ⟨.low, true, none⟩).keyPressed k := by
  unfold Part.keySteady
  simp only [hr, hp]

theorem Part.keySteady_release (hr : (s.panel.key k).raw = .high) (hp : (s.panel.key k).pressed = true) :
    s.keySteady k = (s.setKey k ⟨.high, false, none⟩).keyReleased k := by
  unfold Part.keySteady
  simp only [hr, hp]

theorem Part.keySteady_agrees (h : (s.panel.key k).raw = .low ↔ (s.panel.key k).pressed = true) :
    s.keySteady k = s.setKey k { s.panel.key k with steady := none } := by
  unfold Part.keySteady
  dsimp only
  split
  · next hr hp => rw [h.mp hr] at hp; cases hp
  · next hr hp => rw [h.mpr hp] at hr; cases hr
  · rfl
  · rfl

end

theorem exec_keySteadyExpiry_due {s : State} {k : KeyId} {d : Nat} (h : (s.panel.key k).steady = some d)
    (hd : timeLeft s.alarm.journal.elapsed d = 0) : exec (.keySteadyExpiry k) s = s.becomes (s.keySteady k).serve :=
  congrArg s.becomes (if_pos (by rw [h]; exact Timer.due_some hd))

/-- Settles O36: the sample and the steady timer's row when due, and the press and the release they lead to. -/
theorem keysAreQualifiedAndAct : Obligations.KeysAreQualifiedAndAct := by
  unfold Obligations.KeysAreQualifiedAndAct
  refine ⟨fun s k w h => ⟨fun hr => ?_, fun hr => ?_⟩, fun s p k => ⟨s.fullReset p, rfl, ?_, ?_⟩, ?_⟩
  · rw [exec_keySample_due w h, KeyQualifier.sample_agrees _ hr]
    exact congrArg s.becomes (Part.setKey_key (s.setKeyLine k _) k)
  · rw [exec_keySample_due w h, KeyQualifier.sample_differs _ hr]
  · exact KeyLines.restarted_line ..
  · cases k <;> rfl
  · intro s k d ht hd q pressed keyed chirped
    rw [exec_keySteadyExpiry_due ht hd]
    have hkeyed : pressed.keyed k = chirped := by cases k <;> rfl
    have henv : chirped.env .panel = s.env .panel := by
      rw [← hkeyed, Part.keyed_env, Part.setKey_env]
    have hset : chirped.panel.testSet = s.panel.testSet := by
      rw [← hkeyed, Part.keyed_panel, Part.setKey_testSet]
    refine ⟨fun h => ?_, fun hr hp hl => ?_, fun hr hp hl => ?_, fun hr hp => ?_⟩
    · rw [Part.keySteady_agrees h]
    · rw [Part.keySteady_press hr hp, Part.keyPressed_locked (s := pressed) hl]
    · rw [Part.keySteady_press hr hp, Part.keyPressed_accepted (s := pressed) hl, hkeyed]
      exact congrArg (fun t : Part => s.becomes t.serve) (Part.keyAction_eq k henv hset)
    · rw [Part.keySteady_release hr hp, Part.keyReleased_eq, Part.setKey_testSet]

/-! ## Lamps (R110, R111, R112) -/

theorem Pattern.lit_iff (phase : Nat) (x : Pattern) : x.lit phase = true ↔ (match x with
    | .off => False
    | .steady => True
    | .fast => phase % 250 ≤ 124
    | .slow => phase ≤ 499
    | .double => phase ≤ 99 ∨ (200 ≤ phase ∧ phase ≤ 299)) := by
  cases x with
  | off => simp [Pattern.lit]
  | steady => simp [Pattern.lit]
  | fast => simp only [Pattern.lit, decide_eq_true_eq]; omega
  | slow => simp only [Pattern.lit, decide_eq_true_eq]; omega
  | double => simp only [Pattern.lit, Bool.or_eq_true, Bool.and_eq_true, decide_eq_true_eq]; omega

/-- A lamp is lit steadily while test is active, else by its own pattern. -/
theorem Part.shown_lit (s : Part) (p : PointId) (phase : Nat) : (s.shown p).lit phase = true ↔
    s.panel.testSet.active = true ∨ s.alarm.lamps[p].lit phase = true := by
  unfold Part.shown
  cases s.panel.testSet.active <;> simp [Pattern.lit]

/-- Settles O37: the refreshed drivers are the lamps shown, each evaluated against the flash phase. -/
theorem lampRefreshLatchesTheLitLamps : Obligations.LampRefreshLatchesTheLitLamps := by
  unfold Obligations.LampRefreshLatchesTheLitLamps
  intro s h
  refine ⟨tabulate fun p => (s.shown p).lit s.panel.flash, congrArg s.becomes (if_pos h), fun p => ?_⟩
  rw [Fin.getElem_fin, getElem_tabulate]
  exact (Part.shown_lit s.toPart p s.panel.flash).trans (or_congr_right (Pattern.lit_iff s.panel.flash s.alarm.lamps[p]))

end Sys2Proof.Machine
end

section
/-! SUPPORT. Rows that come without their condition (log 2). -/

namespace Sys2Proof.Machine

/-- Every request row executes its link's oldest waiting frame through the checks of R172. -/
theorem exec_requestCommand (l : LinkId) (bs : List Byte) (k : RequestKind) (s : State) :
    ∃ mine body, exec (requestCommand l bs k) s = s.becomes (s.execute l k mine body) := by
  cases k with
  | restart =>
    have hrow : requestCommand l bs .restart = if coldBodies bs then .restartCold l else .restartWarm l := rfl
    rw [hrow]
    split
    · exact ⟨coldBodies, restartColdBody, rfl⟩
    · exact ⟨warmBodies, restartWarmBody, rfl⟩
  | _ => exact ⟨_, _, rfl⟩

theorem Part.executeUnknown_skip {s : Part} {l : LinkId}
    (h : ∀ f, (s.link l).nextFrame = some f → RequestKind.ofCode f.kind ≠ none) : s.executeUnknown l = s := by
  unfold Part.executeUnknown
  split
  · rfl
  · next f hf => rw [if_neg (h f hf)]

theorem Part.shelfExpired_skip {s : Part} (h : s.alarm.shelfDue = none) : s.shelfExpired = s := by
  unfold Part.shelfExpired
  rw [h]

theorem Part.transmitted_skip {s : Part} {l : LinkId} (p : Straps) (h : (s.link l).sending = none) :
    s.transmitted l p = s := by
  unfold Part.transmitted
  simp only [h]

/-- A row that does something only where its condition holds does the other thing, mostly nothing, where it does not. -/
theorem State.becomes_undue {s : State} {due : Bool} {t u : Part} (h : due = false) :
    s.becomes (if due then t else u) = s.becomes u :=
  congrArg s.becomes (if_neg (Bool.eq_false_iff.mp h))

section
variable {s : State} {p : PointId}

theorem exec_intraFrameGapExpiry_undue {l : LinkId} (h : Timer.due s.alarm.journal.elapsed (s.link l).gapTimer = false) :
    exec (.intraFrameGapExpiry l) s = s.becomes s.toPart :=
  ite_eq_left_iff.mpr fun _ => State.becomes_undue h

theorem exec_reminderExpiry_undue (h : s.reminderDue p = false) :
    exec (.reminderExpiry p.val) s = s.becomes s.toPart := by
  change execReminderExpiry p.val s = _
  unfold execReminderExpiry
  rw [point?_val]
  exact State.becomes_undue h

theorem exec_chatterWindowExpiry_undue (h : Timer.due s.alarm.journal.elapsed s.alarm.chatter[p].window = false) :
    exec (.chatterWindowExpiry p.val) s = s.becomes s.toPart := by
  change execChatterWindowExpiry p.val s = _
  unfold execChatterWindowExpiry
  rw [point?_val]
  exact State.becomes_undue h

/-- The levels presented stand at the lines, also where no scan is made of them (log 21). -/
theorem exec_lineScan_undue (levels : BitVec 24) (h : Timer.due s.alarm.journal.elapsed s.scanTimer = false) :
    exec (.lineScan levels) s = s.becomes { s.toPart with inputs := levels } :=
  State.becomes_undue h

theorem exec_keySample_undue {k : KeyId} (w : Wire) (h : Timer.due s.alarm.journal.elapsed (s.keyLine k).sample = false) :
    exec (.keySample k w) s = s.becomes (s.setKeyLine k { s.keyLine k with level := w }) :=
  State.becomes_undue h

end

/-- Settles O6: row by row, each at the test of its own condition. -/
theorem rowsWithoutTheirConditionChangeNothing : Obligations.RowsWithoutTheirConditionChangeNothing := by
  unfold Obligations.RowsWithoutTheirConditionChangeNothing
  intro s l
  refine ⟨fun k bs h => ?_, fun h => congrArg s.becomes (Part.executeUnknown_skip h), exec_intraFrameGapExpiry_undue,
    State.becomes_undue, State.becomes_undue, fun k => State.becomes_undue, fun p => exec_reminderExpiry_undue,
    fun p => exec_chatterWindowExpiry_undue, fun h => congrArg s.becomes (Part.shelfExpired_skip h), State.becomes_undue,
    fun c => State.becomes_undue, fun c => State.becomes_undue, fun c => State.becomes_undue, exec_lineScan_undue,
    fun k => exec_keySample_undue, State.becomes_undue,
    fun p h => congrArg s.becomes (Part.transmitted_skip p h)⟩
  obtain ⟨mine, body, hrow⟩ := exec_requestCommand l bs k s
  rw [hrow, Part.execute_skip body fun f hf hk => h f hf hk.1]

end Sys2Proof.Machine
end


section
/-! SUPPORT. The laws of the Journal through the operations that commands are made of: transmitters, condition changes, the
test set, the session's end, commit apply and warm restart. -/

namespace Sys2Proof.Machine

/-- The part's Journal obeys its laws. -/
abbrev Part.JournalLaw (s : Part) : Prop := s.alarm.journal.Law

variable {s : Part}

/-! ## Operations on alarms append, and do no more to the Journal -/

theorem Alarm.Turns.journalLaw {e : Env} {a b : Alarm} (h : Alarm.Turns e a b) (ha : a.journal.Law) : b.journal.Law :=
  h.keeps (fun _ _ ht => ht.closed (Journal.Law.closed ..)) ha

theorem Part.act_journalLaw (o : Origin) {f : Env → Alarm → Alarm} (hf : ∀ e a, Alarm.Turns e a (f e a))
    (h : s.JournalLaw) : (s.act o f).JournalLaw :=
  (hf (s.env o) s.alarm).journalLaw h

theorem Part.append_journalLaw (b : RecordBody) (h : s.JournalLaw) : (s.append b).JournalLaw := Journal.append_law b h

theorem Part.setLink_journalLaw (l : LinkId) (v : Link) (h : s.JournalLaw) : (s.setLink l v).JournalLaw := by
  unfold Part.JournalLaw
  rw [Part.setLink_alarm]
  exact h

theorem Part.ite_journalLaw {c : Prop} [Decidable c] {t u : Part} (ht : t.JournalLaw) (hu : u.JournalLaw) :
    (if c then t else u).JournalLaw := by
  split
  · exact ht
  · exact hu

theorem Part.settleRelays_journalLaw (h : s.JournalLaw) : s.settleRelays.JournalLaw := h

/-! ## The transmitters and the execution of a frame (R138, R171, R172, R176) -/

/-- A transmitter that takes the stream's offer leaves the stream behind its report. -/
theorem Part.transmit_journalLaw (l : LinkId) (h : s.JournalLaw) : (s.transmit l).JournalLaw := by
  unfold Part.transmit
  simp only
  split
  · exact h
  · split
    · exact Part.setLink_journalLaw l _ h
    · split
      · next ho =>
        split
        · next hr => exact Part.setLink_journalLaw l _ (Journal.report_law h ho hr)
        · exact h
      · exact h

theorem Part.serve_journalLaw (h : s.JournalLaw) : s.serve.JournalLaw :=
  Part.transmit_journalLaw .b (Part.transmit_journalLaw .a h)

theorem Part.begin_journalLaw (l : LinkId) (f : Frame) (h : s.JournalLaw) : (s.begin l f).JournalLaw :=
  Part.setLink_journalLaw l _ h

theorem Part.conclude_journalLaw (l : LinkId) (f : Frame) (ans : Answer) (h : s.JournalLaw) :
    (s.conclude l f ans).JournalLaw :=
  Part.serve_journalLaw (Part.setLink_journalLaw l _ h)

theorem Part.repeatReply_journalLaw (l : LinkId) (r : Reply) (h : s.JournalLaw) : (s.repeatReply l r).JournalLaw :=
  Part.serve_journalLaw (Part.setLink_journalLaw l _ h)

/-- A frame's execution keeps the laws of the Journal if its block does. -/
theorem Part.execute_journalLaw {l : LinkId} {k : RequestKind} {mine : List Byte → Bool}
    {body : LinkId → List Byte → Part → Part × Option Answer}
    (hb : ∀ b s, s.JournalLaw → (body l b s).1.JournalLaw) (h : s.JournalLaw) :
    (s.execute l k mine body).JournalLaw := by
  unfold Part.execute
  split
  · exact h
  · next f _ =>
    split
    · have hbegun := Part.begin_journalLaw l f h
      simp only
      split
      · exact Part.repeatReply_journalLaw l _ hbegun
      · split
        · exact Part.conclude_journalLaw l f _ hbegun
        · split
          · exact Part.conclude_journalLaw l f _ hbegun
          · have hdone := hb f.body _ hbegun
            split
            · next heq =>
              rw [heq] at hdone
              exact Part.conclude_journalLaw l f _ hdone
            · next heq =>
              rw [heq] at hdone
              exact Part.serve_journalLaw hdone
    · exact h

theorem Part.request_journalLaw {l : LinkId} {k : RequestKind} {body : LinkId → List Byte → Part → Part × Answer}
    (hb : ∀ b s, s.JournalLaw → (body l b s).1.JournalLaw) (h : s.JournalLaw) : (s.request l k body).JournalLaw :=
  Part.execute_journalLaw (body := fun l b s => ((body l b s).1, some (body l b s).2)) hb h

theorem Part.executeUnknown_journalLaw (l : LinkId) (h : s.JournalLaw) : (s.executeUnknown l).JournalLaw := by
  unfold Part.executeUnknown
  split
  · exact h
  · next f _ =>
    have hbegun := Part.begin_journalLaw l f h
    split
    · simp only
      split
      · exact Part.repeatReply_journalLaw l _ hbegun
      · exact Part.conclude_journalLaw l f _ hbegun
    · exact h

/-! ## Conditions (R33, R37, R40, R41, R43) -/

/-- Condition changes delivered: each is an operation on alarms. -/
theorem Part.deliveries_journalLaw (o : Origin) (ps : List PointId) (v : PointId → Bool) {a : Alarm}
    (h : a.journal.Law) : (ps.foldl (fun a p => a.deliver (s.env o) p (v p)) a).journal.Law :=
  foldl_keeps (P := fun a : Alarm => a.journal.Law)
    (fun _ p ha => Alarm.deliver_keeps (Journal.Law.closed ..) p (v p) ha) ps h

theorem Part.brought_journalLaw (o : Origin) (ps : List PointId) (v : PointId → Bool) (h : s.JournalLaw) :
    (s.brought o ps v).JournalLaw :=
  Part.deliveries_journalLaw o _ v h

theorem Part.resolveAll_journalLaw (o : Origin) (src : Source) (h : s.JournalLaw) :
    (s.resolveAll o (s.pointsOn src)).JournalLaw := by
  rw [Part.resolveAll_eq o _ s (s.pointsOn_nodup src)]
  exact Part.brought_journalLaw o _ _ h

theorem Part.asserted_journalLaw (l : LinkId) (v : Bool) (ps : List PointId) (h : s.JournalLaw) :
    (ps.foldl (Part.assertOne l v) s).JournalLaw := by
  unfold Part.JournalLaw
  rw [(Part.foldl_asserted l v ps s).alarm]
  exact Part.deliveries_journalLaw _ _ _ h

theorem Part.scan_journalLaw (levels : BitVec 24) (h : s.JournalLaw) : (s.scan levels).JournalLaw := by
  rw [Part.scan_eq]
  exact Part.brought_journalLaw (s := s.sampled levels) _ _ _ h

/-! ## The test set and the session's end (R107, R153, R157) -/

theorem Part.changeTestSet_journalLaw (o : Origin) (t : TestSet) (h : s.JournalLaw) :
    (s.changeTestSet o t).JournalLaw := by
  rcases Part.changeTestSet_cases o t s with ⟨-, ht⟩ | ⟨-, b, ht⟩ | ⟨-, b, ht⟩ <;> rw [ht]
  · exact h
  · exact Journal.append_law b h
  · exact Journal.append_law b h

theorem Part.abandonCheck_journalLaw (h : s.JournalLaw) : s.abandonCheck.JournalLaw := by
  unfold Part.abandonCheck
  split
  · simp only
    split
    · exact Part.setLink_journalLaw (s := { s with manager := _ }) _ _ h
    · exact h
  · exact h

theorem Part.loseSession_journalLaw (o : LinkId) (h : s.JournalLaw) : (s.loseSession o).JournalLaw := by
  unfold Part.loseSession
  split
  · exact h
  · exact Journal.append_law _ h

theorem Part.endForRestart_journalLaw (l : LinkId) (h : s.JournalLaw) : (s.endForRestart l).JournalLaw :=
  Part.loseSession_journalLaw l (Part.abandonCheck_journalLaw h)

/-! ## Commit apply and warm restart (R158, R161) -/

theorem Alarm.warmRestart_journalLaw (e : Env) {a : Alarm} (h : a.journal.Law) : (a.warmRestart e).journal.Law :=
  (a.warmPassed_turns e).journalLaw (a := a.warmClear) h

theorem Alarm.evaluated_journalLaw (e : Env) (old : Configuration) (now : Nat) {a : Alarm} (h : a.journal.Law) :
    (a.evaluated e old now).journal.Law :=
  Alarm.apply_closed (P := fun a => a.journal.Law) (Journal.Law.closed ..) (fun _ _ h => h) (fun _ _ h => h) old h

/-- Before the alarms change, a commit apply has appended COMMIT. -/
theorem Part.sourced_journalLaw (c : Configuration) (l : LinkId) (h : s.JournalLaw) : (s.sourced c l).JournalLaw := by
  have hframe := congrArg Alarm.journal (congrArg Part.alarm (s.sourced_resourced c l).frame)
  unfold Part.JournalLaw
  rw [hframe]
  exact Journal.append_law _ h

theorem Part.applyCommit_journalLaw (c : Configuration) (l : LinkId) (h : s.JournalLaw) :
    (s.applyCommit c l).JournalLaw :=
  Part.applyCommit_keeps (P := Part.JournalLaw) (fun _ o t => Part.changeTestSet_journalLaw o t) (fun _ h => h)
    (Alarm.evaluated_journalLaw _ _ _ (Part.sourced_journalLaw c l h))

end Sys2Proof.Machine
end


section
/-! SUPPORT. The laws of the Journal through the block of each request. -/

namespace Sys2Proof.Machine

variable {s : Part}

/-! ## The streams of Subscribe and Grant Credits (R133, R135) -/

theorem fromBe_lt (bs : List Byte) : fromBe bs < 256 ^ bs.length := by
  have hfold (bs : List Byte) (n : Nat) :
      bs.foldl (fun n b => n * 256 + b.toNat) n < (n + 1) * 256 ^ bs.length := by
    induction bs generalizing n with
    | nil => simp
    | cons b bs ih =>
      have hb : b.toNat < 256 := b.isLt
      calc (b :: bs).foldl (fun n b => n * 256 + b.toNat) n
          < (n * 256 + b.toNat + 1) * 256 ^ bs.length := ih _
        _ ≤ ((n + 1) * 256) * 256 ^ bs.length := Nat.mul_le_mul_right _ (by omega)
        _ = (n + 1) * 256 ^ (b :: bs).length := by rw [List.length_cons, Nat.pow_succ']; ring
  have h0 := hfold bs 0
  rwa [Nat.zero_add, Nat.one_mul] at h0

theorem field_lt (b : List Byte) (at_ size : Nat) : field b at_ size < 256 ^ size :=
  (fromBe_lt _).trans_le (Nat.pow_le_pow_right (by omega) (by simp))

/-- A sequence number field that is not 0 is a sequence number (R120). -/
theorem isSeq_field {b : List Byte} {at_ : Nat} (h : field b at_ 4 ≠ 0) : isSeq (field b at_ 4) := by
  have hlt := field_lt b at_ 4
  unfold isSeq Config.maxSeq
  omega

/-- A stream set afresh at a number on the arc of the ring is lawful. -/
theorem Stream.On.fresh {next len n credits : Nat} (hn : isSeq n) (hl : seqSteps n next ≤ len) (hc : credits ≤ 64) :
    Stream.On next len ⟨true, n, credits, none⟩ :=
  ⟨nofun, hn, fun _ => hl, hc, nofun⟩

/-- The oldest number of a lawful ring, as many steps behind the next as there are records. -/
theorem Journal.RingLaw.oldest {j : Journal} (h : j.RingLaw) :
    isSeq j.oldest ∧ seqSteps j.oldest j.nextSeq = j.ring.length := by
  unfold Journal.oldest
  split
  · next hr => exact absurd hr h.nonempty
  · next r rs hr => exact ⟨h.numbers r (by rw [hr]; exact List.mem_cons_self), h.oldest_steps hr⟩

/-- Of two numbers behind a third, the further one lies behind the nearer by the difference. -/
theorem seqSteps_sub {m n next : Nat} (hm : isSeq m) (hn : isSeq n) (hx : isSeq next)
    (h : seqSteps n next ≤ seqSteps m next) : seqSteps m n = seqSteps m next - seqSteps n next := by
  rw [seqSteps_eq hm hx, seqSteps_eq hn hx] at *
  rw [seqSteps_eq hm hn]
  unfold isSeq Config.maxSeq at *
  split_ifs at * <;> omega

/-- A stream set at the oldest record after a lost number: its gap accounts for what was lost (R133). -/
theorem Journal.RingLaw.afterLost {j : Journal} (h : j.RingLaw) {n credits : Nat} (hn : isSeq n) (hc : credits ≤ 64)
    (hl : j.ring.length < seqSteps n j.nextSeq) :
    Stream.On j.nextSeq j.ring.length
      ⟨true, j.oldest, credits, some ⟨n, cap16 (seqSteps n j.nextSeq - j.ring.length)⟩⟩ := by
  obtain ⟨ho, hsteps⟩ := h.oldest
  refine ⟨nofun, ho, fun _ => hsteps.le, hc, fun g hg => ?_⟩
  cases hg
  have hgap : seqSteps n j.oldest = seqSteps n j.nextSeq - j.ring.length := by
    rw [seqSteps_sub hn ho h.next (by omega), hsteps]
  rw [cap16_eq_min]
  exact ⟨hn, by dsimp only; omega, by dsimp only; omega, fun hlt => by dsimp only at hlt ⊢; omega⟩

/-- Subscribe FROM, row by row of R120's table (R133). -/
theorem Part.subscribeFrom_journalLaw (l : LinkId) {n credits : Nat} (hn : isSeq n) (hc : credits ≤ 64)
    (h : s.JournalLaw) : (s.subscribeFrom l n credits (s.alarm.journal.place n)).1.JournalLaw := by
  by_cases h0 : seqSteps n s.alarm.journal.nextSeq = 0
  · rw [Journal.place_next h0]
    exact Journal.setStream_law h l (.fresh hn (by omega) hc)
  · by_cases hr : seqSteps n s.alarm.journal.nextSeq ≤ s.alarm.journal.ring.length
    · rw [Journal.place_held (by omega) hr]
      exact Journal.setStream_law h l (.fresh hn hr hc)
    · by_cases hf : seqSteps n s.alarm.journal.nextSeq ≤ Config.halfCircle
      · rw [Journal.place_lost (by omega) hf]
        exact Journal.setStream_law h l (h.ring.afterLost hn hc (by omega))
      · rw [Journal.place_newer (by omega) (by omega)]
        exact h

theorem subscribeBody_journalLaw (l : LinkId) (b : List Byte) (s : Part) (h : s.JournalLaw) :
    (subscribeBody l b s).1.JournalLaw := by
  obtain ⟨holdest, hsteps⟩ := h.ring.oldest
  unfold subscribeBody
  simp only
  split
  · exact h
  · split
    · exact h
    · next hcredits =>
      have hc := (within_bounds (Bool.eq_true_of_not_eq_false hcredits)).2
      split
      · exact Journal.setStream_law h l (.fresh h.ring.next (by rw [seqSteps_self h.ring.next]; omega) hc)
      · split
        · exact Journal.setStream_law h l (.fresh holdest hsteps.le hc)
        · split
          · exact h
          · next hn => exact Part.subscribeFrom_journalLaw l (isSeq_field hn) hc h

theorem grantCreditsBody_journalLaw (l : LinkId) (b : List Byte) (s : Part) (h : s.JournalLaw) :
    (grantCreditsBody l b s).1.JournalLaw := by
  have ht := h.stream l
  unfold grantCreditsBody
  simp only
  split
  · exact h
  · split
    · exact h
    · next hsub =>
      refine Journal.setStream_law h l ⟨fun hs => absurd hs hsub, ht.cursor, ht.onArc, ?_, ht.gap⟩
      simp only [addCredits]
      split <;> omega

/-! ## The other requests -/

theorem Part.newEpoch_journalLaw (l : LinkId) (n : Nat) (h : s.JournalLaw) : (s.newEpoch l n).JournalLaw := by
  have hrecord : (s.append { kind := .epoch, origin := .link l, detail := some n }).JournalLaw := Journal.append_law _ h
  have hended (v : Link) := Journal.endStream_law (Part.setLink_journalLaw l v hrecord) l
  unfold Part.newEpoch
  simp only [Part.dropAssertions_eq]
  refine Part.asserted_journalLaw l false allPoints ?_
  split
  · exact Part.loseSession_journalLaw l (hended _)
  · exact hended _

theorem helloBody_journalLaw (l : LinkId) (b : List Byte) (s : Part) (h : s.JournalLaw) :
    (helloBody l b s).1.JournalLaw := by
  unfold helloBody
  simp only
  split
  · exact h
  · split
    · exact h
    · exact Part.newEpoch_journalLaw l _ h

theorem readLinkStatusBody_journalLaw (l : LinkId) (b : List Byte) (s : Part) (h : s.JournalLaw) :
    (readLinkStatusBody l b s).1.JournalLaw := by
  unfold readLinkStatusBody
  split
  · exact h
  · split
    · exact h
    · simp only
      split
      · exact Part.setLink_journalLaw _ _ h
      · exact h

theorem assertBody_journalLaw (v : Bool) (l : LinkId) (b : List Byte) (s : Part) (h : s.JournalLaw) :
    (assertBody v l b s).1.JournalLaw := by
  unfold assertBody
  split
  · exact h
  · simp only [Part.assertAll_fst]
    exact Part.asserted_journalLaw l v _ h

theorem actionBody_journalLaw {f : Env → Alarm → Alarm × Nat} (hf : ∀ e a, Alarm.Turns e a (f e a).1) (l : LinkId)
    (b : List Byte) (s : Part) (h : s.JournalLaw) : (actionBody f l b s).1.JournalLaw :=
  (hf (s.env (.link l)) s.alarm).journalLaw h

theorem acknowledgePointBody_journalLaw (l : LinkId) (b : List Byte) (s : Part) (h : s.JournalLaw) :
    (acknowledgePointBody l b s).1.JournalLaw := by
  unfold acknowledgePointBody
  split
  · exact h
  · split
    · exact h
    · split
      · exact h
      · exact Alarm.ack_keeps (P := fun a => a.journal.Law) (Journal.Law.closed ..) _ h

theorem resetPointBody_journalLaw (l : LinkId) (b : List Byte) (s : Part) (h : s.JournalLaw) :
    (resetPointBody l b s).1.JournalLaw := by
  unfold resetPointBody
  split
  · exact h
  · split
    · exact h
    · exact Alarm.rst_keeps (P := fun a => a.journal.Law) (Journal.Law.closed ..) _ h

theorem unshelvePointBody_journalLaw (l : LinkId) (b : List Byte) (s : Part) (h : s.JournalLaw) :
    (unshelvePointBody l b s).1.JournalLaw := by
  unfold unshelvePointBody
  split
  · exact h
  · split
    · exact h
    · exact Alarm.unshelve_keeps (P := fun a => a.journal.Law) (Journal.Law.closed ..) _ _ h

theorem shelvePointBody_journalLaw (l : LinkId) (b : List Byte) (s : Part) (h : s.JournalLaw) :
    (shelvePointBody l b s).1.JournalLaw := by
  have hshelve (n : ShelfEntry) : (s.act (.link l) fun e a => a.shelve e n .shelve).settleRelays.JournalLaw :=
    Alarm.shelve_keeps (P := fun a => a.journal.Law) (Journal.Law.closed ..) n .shelve h
  unfold shelvePointBody
  simp only
  split
  · exact h
  · split
    · exact h
    · split
      · exact h
      · exact h
      all_goals
        split
        · exact h
        · exact hshelve _

theorem testBeginBody_journalLaw (l : LinkId) (b : List Byte) (s : Part) (h : s.JournalLaw) :
    (testBeginBody l b s).1.JournalLaw := by
  unfold testBeginBody
  simp only
  split
  · exact h
  · exact Part.changeTestSet_journalLaw (.link l) _ h

theorem testEndBody_journalLaw (l : LinkId) (b : List Byte) (s : Part) (h : s.JournalLaw) :
    (testEndBody l b s).1.JournalLaw := by
  unfold testEndBody
  split
  · exact h
  · exact Part.changeTestSet_journalLaw (.link l) _ h

theorem openSessionBody_journalLaw (l : LinkId) (b : List Byte) (s : Part) (h : s.JournalLaw) :
    (openSessionBody l b s).1.JournalLaw := by
  unfold openSessionBody
  split
  · exact Journal.append_law _ h
  · split <;> exact h

theorem closeSessionBody_journalLaw (l : LinkId) (b : List Byte) (s : Part) (h : s.JournalLaw) :
    (closeSessionBody l b s).1.JournalLaw := by
  unfold closeSessionBody
  split
  · exact h
  · exact Journal.append_law _ h

theorem Part.stageRecord_journalLaw {l : LinkId} {name : Except Answer RecordName} {position : Nat}
    {fields : RecordName → List (Nat × Bool)} {write : RecordName → Configuration → Configuration}
    (h : s.JournalLaw) : (s.stageRecord l name position fields write).1.JournalLaw := by
  unfold Part.stageRecord
  split
  · exact h
  · split
    · exact h
    · split <;> exact h

theorem readStagedBody_fst (l : LinkId) (b : List Byte) (s : Part) : (readStagedBody l b s).1 = s := by
  unfold readStagedBody
  split
  · rfl
  · split <;> rfl

theorem readActiveBody_fst (l : LinkId) (b : List Byte) (s : Part) : (readActiveBody l b s).1 = s := by
  unfold readActiveBody
  split <;> rfl

theorem discardBody_journalLaw (l : LinkId) (b : List Byte) (s : Part) (h : s.JournalLaw) :
    (discardBody l b s).1.JournalLaw := by
  unfold discardBody
  split <;> exact h

theorem commitBody_journalLaw (l : LinkId) (b : List Byte) (s : Part) (h : s.JournalLaw) :
    (commitBody l b s).1.JournalLaw := by
  unfold commitBody
  split <;> exact h

theorem restartWarmBody_journalLaw (l : LinkId) (b : List Byte) (s : Part) (h : s.JournalLaw) :
    (restartWarmBody l b s).1.JournalLaw := by
  unfold restartWarmBody
  split
  · exact h
  · exact Alarm.warmRestart_journalLaw _ (Journal.append_law _ (Part.endForRestart_journalLaw l h))

theorem restartColdBody_journalLaw (l : LinkId) (b : List Byte) (s : Part) (h : s.JournalLaw) :
    (restartColdBody l b s).1.JournalLaw := by
  unfold restartColdBody
  split
  · exact h
  · have hended := Part.endForRestart_journalLaw l h
    exact Part.setLink_journalLaw (s := { s.endForRestart l with manager := _ }) l _ hended

end Sys2Proof.Machine
end


section
/-! SUPPORT. The laws of the Journal through the events, every command and every step. -/

namespace Sys2Proof.Machine

variable {s : Part}

/-! ## The events -/

theorem Part.scanLines_journalLaw (levels : BitVec 24) (h : s.JournalLaw) : (s.scanLines levels).JournalLaw :=
  Part.ite_journalLaw (Part.serve_journalLaw (Part.scan_journalLaw (s := s.present levels) levels h)) h

theorem Part.keyAction_journalLaw (k : KeyId) (h : s.JournalLaw) : (s.keyAction k).JournalLaw := by
  cases k with
  | ack => exact Part.settleRelays_journalLaw (Part.act_journalLaw .panel Alarm.ackAll_turns h)
  | silence => exact Part.settleRelays_journalLaw (Part.act_journalLaw .panel Alarm.silence_turns h)
  | reset => exact Part.settleRelays_journalLaw (Part.act_journalLaw .panel Alarm.resetAll_turns h)
  | test => exact Part.changeTestSet_journalLaw .panel _ h

theorem Part.keyPressed_journalLaw (k : KeyId) (h : s.JournalLaw) : (s.keyPressed k).JournalLaw := by
  have hkey := Part.append_journalLaw { kind := .key, origin := .panel, detail := some (keyCode k) } h
  exact Part.ite_journalLaw h (Part.keyAction_journalLaw k (Part.ite_journalLaw hkey hkey))

theorem Part.keyReleased_journalLaw (k : KeyId) (h : s.JournalLaw) : (s.keyReleased k).JournalLaw := by
  cases k with
  | test => exact Part.ite_journalLaw (Part.changeTestSet_journalLaw .panel _ h) h
  | ack => exact h
  | silence => exact h
  | reset => exact h

theorem Part.keySteady_journalLaw (k : KeyId) (h : s.JournalLaw) : (s.keySteady k).JournalLaw := by
  unfold Part.keySteady
  simp only
  split
  · exact Part.keyPressed_journalLaw (s := s.setKey k _) k h
  · exact Part.keyReleased_journalLaw (s := s.setKey k _) k h
  · exact h
  · exact h

theorem Part.reminderExpired_journalLaw (p : PointId) (h : s.JournalLaw) : (s.reminderExpired p).JournalLaw :=
  Part.ite_journalLaw
    (Part.serve_journalLaw (Alarm.remind_keeps (P := fun a => a.journal.Law) (Journal.Law.closed ..) p h)) h

theorem Part.shelfExpired_journalLaw (h : s.JournalLaw) : s.shelfExpired.JournalLaw := by
  unfold Part.shelfExpired
  split
  · exact h
  · exact Part.serve_journalLaw (Alarm.unshelve_keeps (P := fun a => a.journal.Law) (Journal.Law.closed ..) _ .expire h)

theorem Part.concludeCheck_journalLaw (l : LinkId) (h : s.JournalLaw) : (s.concludeCheck l).1.JournalLaw := by
  unfold Part.concludeCheck
  simp only
  split
  · exact h
  · exact Part.applyCommit_journalLaw _ l h

theorem Part.completeCheck_journalLaw (h : s.JournalLaw) : s.completeCheck.JournalLaw := by
  have hcheck (l : LinkId) : (Part.concludeCheck l { s with manager := { s.manager with check := none } }).1.JournalLaw :=
    Part.concludeCheck_journalLaw l h
  unfold Part.completeCheck
  split
  · exact h
  · simp only
    split
    · exact Part.setLink_journalLaw _ _ (hcheck _)
    · exact hcheck _

/-! ### The links -/

theorem Part.heard_journalLaw (l : LinkId) (h : s.JournalLaw) : (s.heard l).JournalLaw := by
  have hlive (v : Link) : ((s.setLink l v).append { kind := .linkLive, origin := .link l }).JournalLaw :=
    Part.append_journalLaw _ (Part.setLink_journalLaw l v h)
  unfold Part.heard
  simp only
  split
  · exact Part.setLink_journalLaw l _ h
  · exact hlive _
  · exact Part.resolveAll_journalLaw (.link l) _ (hlive _)

theorem Part.fallSilent_journalLaw (l : LinkId) (h : s.JournalLaw) : (s.fallSilent l).JournalLaw := by
  have hsilent (v : Link) := Journal.zeroCredits_law
    (Part.append_journalLaw { kind := .linkSilent, origin := .link l } (Part.setLink_journalLaw l v h)) l
  unfold Part.fallSilent
  refine Part.resolveAll_journalLaw (.link l) _ ?_
  simp only
  split
  · exact Part.loseSession_journalLaw l (Part.abandonCheck_journalLaw (hsilent _))
  · exact hsilent _

theorem Part.completeFrame_journalLaw (l : LinkId) (taken : List Byte) (crc : BitVec 16) (h : s.JournalLaw) :
    (s.completeFrame l taken crc).JournalLaw := by
  have hidle (v : Link) := Part.setLink_journalLaw l v h
  unfold Part.completeFrame
  simp only
  split
  · exact Part.setLink_journalLaw l _ (Part.heard_journalLaw l (hidle _))
  · exact Part.setLink_journalLaw l _ (hidle _)

theorem Part.takeCharacter_journalLaw (l : LinkId) (c : RxChar) (h : s.JournalLaw) :
    (s.takeCharacter l c).JournalLaw := by
  have hframer (v : Link) := Part.setLink_journalLaw l v h
  unfold Part.takeCharacter
  simp only
  split
  · split
    · exact hframer _
    · exact h
  · exact h
  · split <;> exact hframer _
  · exact hframer _
  · split <;> exact hframer _
  · exact hframer _
  · exact hframer _
  · exact Part.completeFrame_journalLaw l _ _ h
  · exact hframer _

theorem Part.receive_journalLaw (l : LinkId) (c : RxChar) (h : s.JournalLaw) : (s.receive l c).JournalLaw :=
  Part.takeCharacter_journalLaw l c (Part.ite_journalLaw (Part.setLink_journalLaw l _ h) h)

theorem Part.gapExpired_journalLaw (l : LinkId) (h : s.JournalLaw) : (s.gapExpired l).JournalLaw :=
  Part.ite_journalLaw (Part.setLink_journalLaw l _ h) h

/-- The frame that a Restart COLD's reply is brings the full reset, whose Journal holds START_COLD alone (R162, R163). -/
theorem Part.transmitted_journalLaw (l : LinkId) (p : Straps) (h : s.JournalLaw) : (s.transmitted l p).JournalLaw := by
  unfold Part.transmitted
  simp only
  split
  · exact h
  · split
    · exact Journal.reset_law
    · exact Part.serve_journalLaw (Part.setLink_journalLaw l _ h)

/-! ## Commands and steps -/

theorem State.run_journalLaw {f : Part → Part} {s t : State} (h : s.run f = .next t) (hf : (f s.toPart).JournalLaw) :
    t.JournalLaw := by
  cases h
  exact hf

theorem exec_journalLaw {c : Instr} {s t : State} (h : exec c s = .next t) (hs : s.JournalLaw) : t.JournalLaw := by
  have hread {l : LinkId} {k : RequestKind} {body : LinkId → List Byte → Part → Part × Answer}
      (hb : ∀ b s, (body l b s).1 = s) : (s.request l k body).JournalLaw :=
    Part.request_journalLaw (fun b s h => by rw [hb]; exact h) hs
  cases c with
  | hello l => exact State.run_journalLaw h (Part.request_journalLaw (helloBody_journalLaw l) hs)
  | ping l => exact State.run_journalLaw h (hread fun _ _ => rfl)
  | readLinkStatus l => exact State.run_journalLaw h (Part.request_journalLaw (readLinkStatusBody_journalLaw l) hs)
  | readPoint l => exact State.run_journalLaw h (hread (readPointBody_fst l))
  | readSummary l => exact State.run_journalLaw h (hread fun _ _ => rfl)
  | readLines l => exact State.run_journalLaw h (hread fun _ _ => rfl)
  | readGroups l => exact State.run_journalLaw h (hread fun _ _ => rfl)
  | readShelf l => exact State.run_journalLaw h (hread fun _ _ => rfl)
  | readSounders l => exact State.run_journalLaw h (hread fun _ _ => rfl)
  | readPanel l => exact State.run_journalLaw h (hread fun _ _ => rfl)
  | raise l => exact State.run_journalLaw h (Part.request_journalLaw (assertBody_journalLaw true l) hs)
  | clear l => exact State.run_journalLaw h (Part.request_journalLaw (assertBody_journalLaw false l) hs)
  | acknowledgeAll l =>
    exact State.run_journalLaw h (Part.request_journalLaw (actionBody_journalLaw Alarm.ackAll_turns l) hs)
  | acknowledgePoint l => exact State.run_journalLaw h (Part.request_journalLaw (acknowledgePointBody_journalLaw l) hs)
  | silence l => exact State.run_journalLaw h (Part.request_journalLaw (actionBody_journalLaw Alarm.silence_turns l) hs)
  | resetAll l => exact State.run_journalLaw h (Part.request_journalLaw (actionBody_journalLaw Alarm.resetAll_turns l) hs)
  | resetPoint l => exact State.run_journalLaw h (Part.request_journalLaw (resetPointBody_journalLaw l) hs)
  | shelvePoint l => exact State.run_journalLaw h (Part.request_journalLaw (shelvePointBody_journalLaw l) hs)
  | unshelvePoint l => exact State.run_journalLaw h (Part.request_journalLaw (unshelvePointBody_journalLaw l) hs)
  | testBegin l => exact State.run_journalLaw h (Part.request_journalLaw (testBeginBody_journalLaw l) hs)
  | testEnd l => exact State.run_journalLaw h (Part.request_journalLaw (testEndBody_journalLaw l) hs)
  | chirp l => exact State.run_journalLaw h (Part.request_journalLaw (fun _ _ h => h) hs)
  | subscribe l => exact State.run_journalLaw h (Part.request_journalLaw (subscribeBody_journalLaw l) hs)
  | grantCredits l => exact State.run_journalLaw h (Part.request_journalLaw (grantCreditsBody_journalLaw l) hs)
  | unsubscribe l =>
    exact State.run_journalLaw h (Part.request_journalLaw (fun _ _ h => Journal.endStream_law h l) hs)
  | fetch l => exact State.run_journalLaw h (hread (fetchBody_fst l))
  | setClock l =>
    exact State.run_journalLaw h (Part.request_journalLaw (fun _ _ h => Journal.append_law _ (h.retimed ..)) hs)
  | openSession l => exact State.run_journalLaw h (Part.request_journalLaw (openSessionBody_journalLaw l) hs)
  | stagePoint l => exact State.run_journalLaw h (Part.request_journalLaw (fun _ _ => Part.stageRecord_journalLaw) hs)
  | stageLine l => exact State.run_journalLaw h (Part.request_journalLaw (fun _ _ => Part.stageRecord_journalLaw) hs)
  | stageTone l => exact State.run_journalLaw h (Part.request_journalLaw (fun _ _ => Part.stageRecord_journalLaw) hs)
  | stageRelay l => exact State.run_journalLaw h (Part.request_journalLaw (fun _ _ => Part.stageRecord_journalLaw) hs)
  | stageLink l => exact State.run_journalLaw h (Part.request_journalLaw (fun _ _ => Part.stageRecord_journalLaw) hs)
  | stageGlobal l => exact State.run_journalLaw h (Part.request_journalLaw (fun _ _ => Part.stageRecord_journalLaw) hs)
  | readStaged l => exact State.run_journalLaw h (hread (readStagedBody_fst l))
  | readActive l => exact State.run_journalLaw h (hread (readActiveBody_fst l))
  | discard l => exact State.run_journalLaw h (Part.request_journalLaw (discardBody_journalLaw l) hs)
  | commit l => exact State.run_journalLaw h (Part.execute_journalLaw (commitBody_journalLaw l) hs)
  | closeSession l => exact State.run_journalLaw h (Part.request_journalLaw (closeSessionBody_journalLaw l) hs)
  | restartWarm l => exact State.run_journalLaw h (Part.execute_journalLaw (restartWarmBody_journalLaw l) hs)
  | restartCold l => exact State.run_journalLaw h (Part.execute_journalLaw (restartColdBody_journalLaw l) hs)
  | unknownKind l => exact State.run_journalLaw h (Part.executeUnknown_journalLaw l hs)
  | lineScan levels => exact State.run_journalLaw h (Part.scanLines_journalLaw levels hs)
  | keySample k w => exact State.run_journalLaw h (Part.ite_journalLaw hs hs)
  | keySteadyExpiry k =>
    exact State.run_journalLaw h (Part.ite_journalLaw (Part.serve_journalLaw (Part.keySteady_journalLaw k hs)) hs)
  | reminderExpiry n =>
    change execReminderExpiry n s = _ at h
    unfold execReminderExpiry at h
    split at h
    · exact State.run_journalLaw h (Part.reminderExpired_journalLaw _ hs)
    · cases h
  | shelfExpiry => exact State.run_journalLaw h (Part.shelfExpired_journalLaw hs)
  | chatterWindowExpiry n =>
    change execChatterWindowExpiry n s = _ at h
    unfold execChatterWindowExpiry at h
    split at h
    · exact State.run_journalLaw h (Part.ite_journalLaw hs hs)
    · cases h
  | cadencePhaseExpiry c => exact State.run_journalLaw h (Part.ite_journalLaw hs hs)
  | escalationStep c => exact State.run_journalLaw h (Part.ite_journalLaw hs hs)
  | chirpTimerExpiry c => exact State.run_journalLaw h (Part.ite_journalLaw hs hs)
  | messageTestExpiry l =>
    have hleft := Part.changeTestSet_journalLaw .timer (s.panel.testSet.setLink l false) hs
    exact State.run_journalLaw h (Part.ite_journalLaw (Part.serve_journalLaw hleft) hs)
  | lampRefresh => exact State.run_journalLaw h (Part.ite_journalLaw hs hs)
  | commitCheckCompletion =>
    exact State.run_journalLaw h (Part.ite_journalLaw (Part.serve_journalLaw (Part.completeCheck_journalLaw hs)) hs)
  | receiveCharacter l c =>
    exact State.run_journalLaw (f := fun p => (p.receive l c).serve) h
      (Part.serve_journalLaw (Part.receive_journalLaw l c hs))
  | intraFrameGapExpiry l =>
    change execIntraFrameGapExpiry l s = _ at h
    unfold execIntraFrameGapExpiry at h
    split at h
    · cases h; exact hs
    · exact State.run_journalLaw h (Part.gapExpired_journalLaw l hs)
  | supervisionExpiry l =>
    exact State.run_journalLaw h (Part.ite_journalLaw (Part.serve_journalLaw (Part.fallSilent_journalLaw l hs)) hs)
  | transmitComplete l p => exact State.run_journalLaw h (Part.transmitted_journalLaw l p hs)
  | fullReset p => exact State.run_journalLaw (f := fun p' => p'.fullReset p) h Journal.reset_law

/-- Settles O56: by the three things a step can be: a command waiting, the part's own work, a millisecond. -/
theorem stepKeepsTheJournalLaw : Obligations.StepKeepsTheJournalLaw := by
  unfold Obligations.StepKeepsTheJournalLaw
  intro s t h hs
  unfold step at h
  split at h
  · next rest _ => exact exec_journalLaw (s := ⟨s.toPart, rest⟩) h hs
  · split at h
    · exact exec_journalLaw (s := ⟨s.chosen, s.pending⟩) h hs
    · cases h
      exact Journal.tick_law (Part.gapExpired_journalLaw .b (Part.gapExpired_journalLaw .a hs))

end Sys2Proof.Machine
end


section
/-! SUPPORT. What the Journal answers and takes: a record appended, the run of a Fetch, the clock set (R119 to R123, R128,
R139). -/

namespace Sys2Proof.Machine

/-! ## A record taken (R119, R120, R121, R139) -/

/-- A stream whose cursor lies on the record that is dropped moves off it, and its gap begins or grows (R139). -/
theorem Stream.overwritten_eq (d : Nat) (t : Stream) : t.overwritten d =
    if t.subscribed = true ∧ t.cursor = d then
      { t with
        cursor := seqAfter d
        gap := some (match t.gap with
          | none => ⟨d, 1⟩
          | some g => ⟨g.first, min 65535 (g.count + 1)⟩) }
    else t := by
  unfold Stream.overwritten
  refine if_congr (by rw [Bool.and_eq_true, decide_eq_true_eq]) ?_ rfl
  cases t.gap with
  | none => rfl
  | some g => simp only [cap16_eq_min]

/-- An append to a ring that is not full leaves the streams alone. -/
theorem Journal.append_stream_notFull {j : Journal} (b : RecordBody) (h : j.ring.length < Config.ringSize) (l : LinkId) :
    (j.append b).stream l = j.stream l := by
  rw [Journal.append_stream, Journal.makeRoom_notFull h]

/-- An append to a full ring tells each stream the number of the record that is dropped. -/
theorem Journal.append_stream_full {j : Journal} (b : RecordBody) {r : Record} {rs : List Record} (hr : j.ring = r :: rs)
    (h : Config.ringSize ≤ j.ring.length) (l : LinkId) : (j.append b).stream l = (j.stream l).overwritten r.seq := by
  rw [Journal.append_stream, Journal.makeRoom_full hr h]
  cases l <;> rfl

/-- Settles O39: the record and its place in the ring, then the streams before and after the ring is full. -/
theorem appendTakesTheRecordWhole : Obligations.AppendTakesTheRecordWhole := by
  unfold Obligations.AppendTakesTheRecordWhole
  intro j b
  refine ⟨rfl, Journal.append_clock .., Journal.append_basis .., Journal.append_elapsed .., ?_,
    Journal.append_stream_notFull b,
    fun r rs l hr h => (Journal.append_stream_full b hr h l).trans (Stream.overwritten_eq ..)⟩
  rw [Journal.append_ring]
  exact congrArg (· ++ _) ((if_congr Nat.not_lt.symm rfl rfl).trans (ite_not ..))

/-! ## Fetch (R122, R123) -/

section
variable {j : Journal} {first count : Nat}

theorem Journal.fetch_next (h : seqSteps first j.nextSeq = 0) : j.fetch first count = [] := by
  rw [Journal.fetch, Journal.place_next h]
  rfl

theorem Journal.fetch_held (h1 : 1 ≤ seqSteps first j.nextSeq) (h2 : seqSteps first j.nextSeq ≤ j.ring.length) :
    j.fetch first count = (j.ring.drop (j.ring.length - seqSteps first j.nextSeq)).take count := by
  rw [Journal.fetch, Journal.place_held h1 h2]
  rfl

/-- A lost number is answered with a GAP record and the oldest records (R123, R124). -/
theorem Journal.fetch_lost (hc : 1 ≤ count) (h1 : j.ring.length < seqSteps first j.nextSeq)
    (h2 : seqSteps first j.nextSeq ≤ Config.halfCircle) :
    j.fetch first count =
      j.gapRecord first (seqSteps first j.nextSeq - j.ring.length) :: j.ring.take (count - 1) := by
  rw [Journal.fetch, Journal.place_lost h1 h2]
  exact List.take_cons hc

theorem Journal.fetch_newer (h1 : j.ring.length < seqSteps first j.nextSeq)
    (h2 : Config.halfCircle < seqSteps first j.nextSeq) : j.fetch first count = [] := by
  rw [Journal.fetch, Journal.place_newer h1 h2]
  rfl

end

/-- Settles O16: the two refusals, then the run by where its first number lies against the ring. -/
theorem fetchAnswersTheRun : Obligations.FetchAnswersTheRun := by
  unfold Obligations.FetchAnswersTheRun
  rintro s l f first count h rfl rfl
  refine ⟨fun h0 => State.run_answered h fetchBody ?_, fun h0 hc => State.run_answered h fetchBody ?_,
    fun h0 h1 h8 => ⟨s.alarm.journal.fetch (field f.body 0 4) (field f.body 4 1),
      State.run_answered h fetchBody ?_, Journal.fetch_next, Journal.fetch_held, fun ha hb => ?_, Journal.fetch_newer⟩⟩
  · rw [fetchBody, if_pos h0, h0]
    rfl
  · rw [fetchBody, if_neg h0, if_pos (within_eq_false.mpr (hc.imp_left Nat.lt_one_iff.mpr))]
    rfl
  · rw [fetchBody, if_neg h0, if_neg (by rw [within_eq_true h1 h8]; nofun), Part.begin_alarm]
    rfl
  · rw [Journal.fetch_lost h1 ha hb, Journal.gapRecord, cap16_eq_min]

/-! ## Set Clock (R128) -/

theorem Basis.code_eq (b : Basis) : b.code = match b with
    | .elapsed => 0
    | .calendar => 1 := by cases b <;> rfl

/-- Settles O38: the block in the part that has begun the frame. -/
theorem setClockLoadsTheClock : Obligations.SetClockLoadsTheClock := by
  unfold Obligations.SetClockLoadsTheClock
  intro s l f h j
  refine State.run_ready h setClockBody ?_
  rw [setClockBody, Part.begin_alarm]
  exact Prod.ext rfl (congrArg (fun n => okAnswer (be 6 j.clock ++ be 1 n ++ be 4 j.nextSeq)) (Basis.code_eq j.basis))

end Sys2Proof.Machine
end


section
/-! SUPPORT. A step on an empty queue: the due work that is taken, or the end of the present count and one millisecond (R126,
R127; logs 1, 7, 14, 16). -/

namespace Sys2Proof.Machine

/-! ## Timers (R127, log 14) -/

theorem clockAfter_clockAfter (now d e : Nat) : clockAfter (clockAfter now d) e = clockAfter now (d + e) := by
  unfold clockAfter
  rw [Nat.mod_add_mod, Nat.add_assoc]

/-- A deadline less than half the count's range ahead is as far ahead as it was set. -/
theorem timeLeft_clockAfter (now : Nat) {d : Nat} (h : d < Config.clockModulus / 2) :
    timeLeft now (clockAfter now d) = d := by
  unfold timeLeft
  rw [clockAfter_ahead now d (by omega)]
  exact if_pos h

/-- A timer started for `d` is due `d` later and, up to then, not before. -/
theorem Timer.due_started (c : Nat) {d e : Nat} (hd : d < Config.clockModulus / 2) (he : e ≤ d) :
    Timer.due (clockAfter c e) (some (clockAfter c d)) = true ↔ e = d := by
  have hleft : timeLeft (clockAfter c e) (clockAfter c d) = d - e := by
    rw [← Nat.add_sub_of_le he, ← clockAfter_clockAfter, timeLeft_clockAfter _ (by omega), Nat.add_sub_cancel_left]
  rw [Timer.due, hleft, decide_eq_true_eq]
  omega

/-! ## The end of a count (R167, log 16) -/

/-- A link as the count `now` ends: a frame whose gap timer has run out is abandoned and counted. -/
def Link.endedAt (now : Nat) (k : Link) : Link := if Timer.due now k.gapTimer = true then k.abandonFrame else k

theorem Part.gapExpired_eq (l : LinkId) (s : Part) :
    s.gapExpired l = s.setLink l ((s.link l).endedAt s.alarm.journal.elapsed) := by
  unfold Part.gapExpired Link.endedAt
  split
  · rfl
  · exact (Part.setLink_self s l).symm

theorem Part.endCount_eq (s : Part) : s.endCount = { s with
    linkA := s.linkA.endedAt s.alarm.journal.elapsed, linkB := s.linkB.endedAt s.alarm.journal.elapsed } := by
  unfold Part.endCount
  rw [Part.gapExpired_eq, Part.gapExpired_eq]
  rfl

/-! ## A step on an empty queue (logs 1, 7) -/

theorem step_idle {s : State} (hq : s.pending = []) (h : s.dueCommands = []) : step s = s.becomes s.endCount.tick := by
  unfold step
  split
  · next hc => exact absurd (hq.symm.trans hc) nofun
  · rw [Part.nextDue_none h]
    rfl

theorem step_due {s : State} (hq : s.pending = []) (h : s.dueCommands ≠ []) :
    ∃ c ∈ s.dueCommands, step s = exec c { s with free := s.free + 1 } := by
  obtain ⟨c, hc, hn⟩ := Part.nextDue_some h
  refine ⟨c, hc, ?_⟩
  unfold step
  split
  · next hc => exact absurd (hq.symm.trans hc) nofun
  · rw [hn]
    rfl

theorem Part.silenceDue_iff (l : LinkId) (s : Part) : s.silenceDue l = true ↔
    (s.link l).state = .live ∧ Timer.due s.alarm.journal.elapsed (s.link l).supervision = true := by
  rw [Part.silenceDue, Bool.and_eq_true, decide_eq_true_eq]

theorem Part.reminderDue_iff (p : PointId) (s : Part) : s.reminderDue p = true ↔
    s.alarm.points[p].state = .standing ∧ Timer.due s.alarm.journal.elapsed s.alarm.points[p].reminder = true := by
  rw [Part.reminderDue, Bool.and_eq_true, decide_eq_true_eq]

/-- Settles O2: a millisecond, the due work and what is due, then the timers. -/
theorem emptyQueueDoesDueWorkOrTime : Obligations.EmptyQueueDoesDueWorkOrTime := by
  unfold Obligations.EmptyQueueDoesDueWorkOrTime
  refine ⟨?_, fun c d e _ => Timer.due_started c⟩
  intro s hq now ended
  refine ⟨fun h => ?_, step_due hq, fun c => ?_⟩
  · rw [step_idle hq h, Part.endCount_eq]
    rfl
  · rw [Part.mem_dueCommands]
    simp only [Part.silenceDue_iff, Part.reminderDue_iff, Alarm.shelfDue_isSome]
    exact Iff.rfl

end Sys2Proof.Machine
end


section
/-! SUPPORT. The requests that set a stream: Subscribe, Grant Credits and Unsubscribe (R133 to R136). -/

namespace Sys2Proof.Machine

section
variable {s : Part} {l : LinkId} {b : List Byte}

/-! ## Subscribe: the checks in order, then the start (R133) -/

theorem subscribeBody_start_range (hs : 2 < field b 0 1) : subscribeBody l b s = (s, refuseRange 1 (field b 0 1)) :=
  if_pos (within_eq_false.mpr (.inr hs))

theorem subscribeBody_credits_range (hs : field b 0 1 ≤ 2) (hc : 64 < field b 5 1) :
    subscribeBody l b s = (s, refuseRange 3 (field b 5 1)) := by
  unfold subscribeBody
  simp only
  rw [if_neg (by rw [within_eq_false]; omega), if_pos (within_eq_false.mpr (.inr hc))]

/-- With the start and the credits in their tables, the start decides. -/
theorem subscribeBody_checked (hs : field b 0 1 ≤ 2) (hc : field b 5 1 ≤ 64) : subscribeBody l b s =
    if field b 0 1 = 0 then s.subscribeTo l s.alarm.journal.nextSeq (field b 5 1) none
    else if field b 0 1 = 1 then s.subscribeTo l s.alarm.journal.oldest (field b 5 1) none
    else if field b 1 4 = 0 then (s, refuseRange 2 (field b 1 4))
    else s.subscribeFrom l (field b 1 4) (field b 5 1) (s.alarm.journal.place (field b 1 4)) := by
  unfold subscribeBody
  simp only
  rw [if_neg (by rw [within_eq_false]; omega), if_neg (by rw [within_eq_false]; omega)]

theorem subscribeBody_next (hs : field b 0 1 = 0) (hc : field b 5 1 ≤ 64) :
    subscribeBody l b s = s.subscribeTo l s.alarm.journal.nextSeq (field b 5 1) none := by
  rw [subscribeBody_checked (by omega) hc, if_pos hs]

theorem subscribeBody_oldest (hs : field b 0 1 = 1) (hc : field b 5 1 ≤ 64) :
    subscribeBody l b s = s.subscribeTo l s.alarm.journal.oldest (field b 5 1) none := by
  rw [subscribeBody_checked (by omega) hc, if_neg (by omega), if_pos hs]

theorem subscribeBody_from_zero (hs : field b 0 1 = 2) (hc : field b 5 1 ≤ 64) (hn : field b 1 4 = 0) :
    subscribeBody l b s = (s, refuseRange 2 0) := by
  rw [subscribeBody_checked (by omega) hc, if_neg (by omega), if_neg (by omega), if_pos hn, hn]

theorem subscribeBody_from (hs : field b 0 1 = 2) (hc : field b 5 1 ≤ 64) (hn : field b 1 4 ≠ 0) : subscribeBody l b s =
    s.subscribeFrom l (field b 1 4) (field b 5 1) (s.alarm.journal.place (field b 1 4)) := by
  rw [subscribeBody_checked (by omega) hc, if_neg (by omega), if_neg (by omega), if_neg hn]

/-! ## Subscribe FROM, by where the number lies against the ring (R120, R133) -/

theorem Journal.oldest_cons {j : Journal} {r : Record} {rs : List Record} (h : j.ring = r :: rs) : j.oldest = r.seq := by
  rw [Journal.oldest, h]

/-- The next number and the held ones are streamed from as asked. -/
theorem Part.subscribeFrom_onArc {n : Nat} (credits : Nat)
    (h : seqSteps n s.alarm.journal.nextSeq ≤ s.alarm.journal.ring.length) :
    s.subscribeFrom l n credits (s.alarm.journal.place n) = s.subscribeTo l n credits none := by
  rcases Nat.eq_zero_or_pos (seqSteps n s.alarm.journal.nextSeq) with h0 | h1
  · rw [Journal.place_next h0]
    rfl
  · rw [Journal.place_held h1 h]
    rfl

/-- From a lost number the stream starts at the oldest record, with the loss as its gap. -/
theorem Part.subscribeFrom_lost {n : Nat} (credits : Nat)
    (h : s.alarm.journal.ring.length < seqSteps n s.alarm.journal.nextSeq)
    (hf : seqSteps n s.alarm.journal.nextSeq ≤ Config.halfCircle) :
    s.subscribeFrom l n credits (s.alarm.journal.place n) = s.subscribeTo l s.alarm.journal.oldest credits
      (some ⟨n, min 65535 (seqSteps n s.alarm.journal.nextSeq - s.alarm.journal.ring.length)⟩) := by
  rw [Journal.place_lost h hf, ← cap16_eq_min]
  rfl

theorem Part.subscribeFrom_newer {n : Nat} (credits : Nat)
    (h : s.alarm.journal.ring.length < seqSteps n s.alarm.journal.nextSeq)
    (hf : Config.halfCircle < seqSteps n s.alarm.journal.nextSeq) :
    s.subscribeFrom l n credits (s.alarm.journal.place n) = (s, refuseRange 2 n) := by
  rw [Journal.place_newer h hf]
  rfl

end

/-- The row completes with the stream set and shown, where the block of the part that has begun the frame sets it. -/
theorem exec_subscribe_sets {s : State} {l : LinkId} {f : Frame} (h : s.Ready l .subscribe f) {cursor credits : Nat}
    {gap : Option Gap}
    (hb : subscribeBody l f.body (s.begin l f) = (s.begin l f).subscribeTo l cursor credits gap) :
    exec (.subscribe l) s = s.becomes (((s.begin l f).setStream l ⟨true, cursor, credits, gap⟩).conclude l f
      (okAnswer (be 4 cursor ++ be 1 credits ++ gapChars gap ++ be 4 s.alarm.journal.newest))) := by
  refine State.run_ready h subscribeBody ?_
  rw [hb, Part.subscribeTo, Part.begin_alarm]

/-- Settles O40: the checks in their order, then the three starts, FROM by where its number lies against the ring. -/
theorem subscribeSetsTheStream : Obligations.SubscribeSetsTheStream := by
  unfold Obligations.SubscribeSetsTheStream
  rintro s l f _ _ _ h rfl rfl rfl j a at_
  have hj : (s.begin l f).alarm.journal = j := by rw [Part.begin_alarm]
  refine ⟨fun hs => ?_, fun hs hc => ?_, fun hs hc => ?_, fun r rs hs hc hr => ?_, fun hs hc hn => ?_,
    fun hs hc hn ha => ?_, fun r rs hs hc hn hr ha hf => ?_, fun hs hc hn ha hf => ?_⟩
  · exact State.run_answered h subscribeBody (subscribeBody_start_range hs)
  · exact State.run_answered h subscribeBody (subscribeBody_credits_range hs hc)
  · exact exec_subscribe_sets h ((subscribeBody_next hs hc).trans (by rw [hj]))
  · exact exec_subscribe_sets h ((subscribeBody_oldest hs hc).trans (by rw [hj, Journal.oldest_cons hr]))
  · exact State.run_answered h subscribeBody (subscribeBody_from_zero hs hc hn)
  · exact exec_subscribe_sets h ((subscribeBody_from hs hc hn).trans
      (Part.subscribeFrom_onArc _ (by rw [hj]; exact ha)))
  · refine exec_subscribe_sets h ((subscribeBody_from hs hc hn).trans
      ((Part.subscribeFrom_lost _ (by rw [hj]; exact ha) (by rw [hj]; exact hf)).trans ?_))
    rw [hj, Journal.oldest_cons hr]
  · exact State.run_answered h subscribeBody ((subscribeBody_from hs hc hn).trans
      (Part.subscribeFrom_newer _ (by rw [hj]; exact ha) (by rw [hj]; exact hf)))

/-! ## Grant Credits and Unsubscribe (R135, R136) -/

theorem addCredits_eq_min (c n : Nat) : addCredits c n = min 64 (c + n) := by
  unfold addCredits Config.maxCredits
  split <;> omega

theorem yesNo_isSome {α : Type} [DecidableEq α] (o : Option α) : yesNo o.isSome = if o = none then 0 else 1 := by
  cases o <;> rfl

section
variable {s : Part} {l : LinkId} {b : List Byte}

theorem grantCreditsBody_range (h : field b 0 1 = 0 ∨ 64 < field b 0 1) :
    grantCreditsBody l b s = (s, refuseRange 1 (field b 0 1)) :=
  if_pos (within_eq_false.mpr (h.imp_left Nat.lt_one_iff.mpr))

theorem grantCreditsBody_notSubscribed (h1 : 1 ≤ field b 0 1) (h2 : field b 0 1 ≤ 64)
    (hs : (s.alarm.journal.stream l).subscribed = false) : grantCreditsBody l b s = (s, refuse .notSubscribed) := by
  unfold grantCreditsBody
  simp only
  rw [if_neg (by rw [within_eq_false]; omega), if_pos hs]

theorem grantCreditsBody_adds (h1 : 1 ≤ field b 0 1) (h2 : field b 0 1 ≤ 64) {t : Stream}
    (ht : s.alarm.journal.stream l = t) (hs : t.subscribed = true) :
    grantCreditsBody l b s = (s.setStream l { t with credits := min 64 (t.credits + field b 0 1) },
      okAnswer (be 1 (min 64 (t.credits + field b 0 1)) ++ be 4 t.cursor ++ be 1 (if t.gap = none then 0 else 1))) := by
  unfold grantCreditsBody
  simp only
  rw [if_neg (by rw [within_eq_false]; omega), ht, if_neg (by rw [hs]; nofun), addCredits_eq_min, yesNo_isSome]

end

/-- Settles O41: each request's block in the part that has begun the frame, whose streams are as they were. -/
theorem grantCreditsAndUnsubscribe : Obligations.GrantCreditsAndUnsubscribe := by
  unfold Obligations.GrantCreditsAndUnsubscribe
  intro s l f t
  have ht : (s.begin l f).alarm.journal.stream l = t := by rw [Part.begin_alarm]
  refine ⟨?_, ?_, ?_, fun h => ?_⟩
  · rintro _ h rfl h1 h2 hs
    exact State.run_ready h grantCreditsBody (grantCreditsBody_adds h1 h2 ht hs)
  · rintro _ h rfl hr
    exact State.run_answered h grantCreditsBody (grantCreditsBody_range hr)
  · rintro _ h rfl h1 h2 hs
    exact State.run_answered h grantCreditsBody (grantCreditsBody_notSubscribed h1 h2 (by rw [ht]; exact hs))
  · refine State.run_ready h unsubscribeBody ?_
    rw [unsubscribeBody, ht]
    rfl

end Sys2Proof.Machine
end


section
/-! SUPPORT. The laws of the links' queues, of the session lock and of the links' copies as one law, and what the execution of
a frame, the end of a check and the end of a session make of it (R147, R170, R171, R173, R179). -/

namespace Sys2Proof.Machine

variable {s t : Part} {l : LinkId} {k : Link} {r : LinkConfig} {b : Bool}

/-! ## The law -/

/-- The law of the session lock by itself (R147). -/
structure Manager.LockLaw (m : Manager) : Prop where
  staging : m.staging.isSome = m.holder.isSome
  id : m.sessionId = 0 ↔ m.holder = none
  check : m.check ≠ none → m.holder ≠ none

/-- A link's Commit waits for its check. -/
def Manager.checking (m : Manager) (l : LinkId) : Bool := m.check.isSome && m.heldBy l

/-- What holds of one link: its queues, whether it executes a frame, and its copies of its record. -/
structure Link.LockLaw (r : LinkConfig) (executes : Bool) (k : Link) : Prop where
  queues : k.QueueLaw
  executing : k.executing.isSome = executes
  authority : k.authority = r.authority
  heartbeat : k.heartbeat = r.heartbeat

/-- The laws of the queues, the session lock and the links' copies, where the links that are `busy` execute a request of
their own beside the Commit that may wait for its check. -/
structure Part.LockLaw (busy : LinkId → Bool) (s : Part) : Prop where
  lock : s.manager.LockLaw
  authority : ∀ l, s.manager.holder = some l → (s.active.link l).authority = .configure
  apart : ∀ l, busy l = true → s.manager.checking l = false
  links : ∀ l, (s.link l).LockLaw (s.active.link l) (busy l || s.manager.checking l)

/-- No link executes a request but for the Commit that waits for its check. -/
abbrev noLink : LinkId → Bool := fun _ => false

/-- One link executes a request. -/
abbrev onlyLink (l : LinkId) : LinkId → Bool := fun m => decide (m = l)

/-- The law between two commands is what the laws of the queues, the lock and the copies say of these blocks. -/
theorem Part.lockLaw_iff (s : Part) : s.LockLaw noLink ↔ s.QueueLaw ∧ s.SessionLaw ∧
    ∀ l, (s.link l).authority = (s.active.link l).authority ∧ (s.link l).heartbeat = (s.active.link l).heartbeat := by
  constructor
  · intro h
    refine ⟨⟨(h.links .a).queues, (h.links .b).queues⟩,
      ⟨h.lock.staging, h.lock.id, h.lock.check, fun l => (h.links l).executing, h.authority⟩,
      fun l => ⟨(h.links l).authority, (h.links l).heartbeat⟩⟩
  · rintro ⟨⟨ha, hb⟩, hs, hc⟩
    refine ⟨⟨hs.staging, hs.id, hs.check⟩, hs.authority, nofun, fun l => ⟨?_, hs.executing l, (hc l).1, (hc l).2⟩⟩
    cases l
    · exact ha
    · exact hb

/-! ## Changes that the law does not read -/

/-- What the law reads of the part. -/
def Part.locks (s : Part) : Configuration × Manager × Link × Link := (s.active, s.manager, s.linkA, s.linkB)

theorem Part.locks_link (h : t.locks = s.locks) (l : LinkId) : t.link l = s.link l := by
  simp only [Part.locks, Prod.mk.injEq] at h
  obtain ⟨-, -, ha, hb⟩ := h
  cases l
  · exact ha
  · exact hb

theorem Part.locks_active (h : t.locks = s.locks) : t.active = s.active := congrArg Prod.fst h

theorem Part.locks_manager (h : t.locks = s.locks) : t.manager = s.manager := congrArg (fun x => x.2.1) h

variable {busy : LinkId → Bool}

theorem Part.LockLaw.of_locks (h : s.LockLaw busy) (ht : t.locks = s.locks) : t.LockLaw busy := by
  have hm := Part.locks_manager ht
  have ha := Part.locks_active ht
  refine ⟨hm ▸ h.lock, fun l hl => ?_, fun l hl => ?_, fun l => ?_⟩
  · rw [ha]; exact h.authority l (hm ▸ hl)
  · rw [hm]; exact h.apart l hl
  · rw [Part.locks_link ht, ha, hm]; exact h.links l

theorem Part.setManager_link (m : Manager) (l : LinkId) (s : Part) : ({ s with manager := m } : Part).link l = s.link l := by
  cases l <;> rfl

/-- A transmitter's choice leaves the queues, and what is executed, as they are. -/
theorem Part.LockLaw.serve (h : s.LockLaw busy) : s.serve.LockLaw busy := by
  refine ⟨by rw [Part.serve_manager]; exact h.lock, fun l hl => ?_, fun l hl => ?_, fun l => ?_⟩
  · rw [Part.serve_manager] at hl
    rw [Part.serve_active]
    exact h.authority l hl
  · rw [Part.serve_manager]
    exact h.apart l hl
  · obtain ⟨⟨hw, hp⟩, he, ha, hb⟩ := h.links l
    rw [Part.serve_manager, Part.serve_active]
    refine ⟨⟨?_, ?_⟩, ?_, ?_, ?_⟩
    · rwa [Part.serve_waiting]
    · unfold Link.placesTaken
      rwa [Part.serve_replies, Part.serve_executing]
    · rwa [Part.serve_executing]
    · rwa [Part.serve_authority]
    · rwa [Part.serve_heartbeat]

/-! ## One link changed -/

theorem Part.LockLaw.setLink (h : s.LockLaw busy) {v : Link}
    (hv : v.LockLaw (s.active.link l) (busy l || s.manager.checking l)) : (s.setLink l v).LockLaw busy := by
  refine ⟨by rw [Part.setLink_manager]; exact h.lock, fun m hm => ?_, fun m hm => ?_, fun m => ?_⟩
  · rw [Part.setLink_manager] at hm
    rw [Part.setLink_active]
    exact h.authority m hm
  · rw [Part.setLink_manager]
    exact h.apart m hm
  · rw [Part.setLink_manager, Part.setLink_active, Part.setLink_link_ite]
    split
    · next hm => rw [hm]; exact hv
    · exact h.links m

/-- The links that are busy change with what they execute. -/
theorem Part.LockLaw.setBusy (h : s.LockLaw busy) {v : Link} {busy' : LinkId → Bool} (hother : ∀ m, m ≠ l → busy' m = busy m)
    (hapart : busy' l = true → s.manager.checking l = false)
    (hv : v.LockLaw (s.active.link l) (busy' l || s.manager.checking l)) : (s.setLink l v).LockLaw busy' := by
  refine ⟨by rw [Part.setLink_manager]; exact h.lock, fun m hm => ?_, fun m hm => ?_, fun m => ?_⟩
  · rw [Part.setLink_manager] at hm
    rw [Part.setLink_active]
    exact h.authority m hm
  · rw [Part.setLink_manager]
    by_cases hml : m = l
    · subst hml; exact hapart hm
    · exact h.apart m (hother m hml ▸ hm)
  · rw [Part.setLink_manager, Part.setLink_active, Part.setLink_link_ite]
    split
    · next hm => rw [hm]; exact hv
    · next hm => rw [hother m hm]; exact h.links m

/-- A reply placed where a frame's execution ends takes the place reserved for it (R171). -/
theorem Link.LockLaw.ended (h : k.LockLaw r true) {v : Link} {x : Reply} (hw : v.waiting = k.waiting)
    (hr : v.replies = k.replies ++ [x]) (he : v.executing = none) (ha : v.authority = k.authority)
    (hb : v.heartbeat = k.heartbeat) : v.LockLaw r false := by
  have hplaces : v.placesTaken = k.placesTaken := by
    unfold Link.placesTaken
    rw [hr, he, h.executing]
    simp
  exact ⟨⟨by rw [hw]; exact h.queues.1, by rw [hplaces]; exact h.queues.2⟩, by rw [he]; rfl, ha.trans h.authority,
    hb.trans h.heartbeat⟩

theorem Link.LockLaw.finish (h : k.LockLaw r true) (f : Frame) (ans : Answer) : (k.finish f ans).LockLaw r false :=
  h.ended rfl rfl rfl rfl rfl

/-! ## A frame's execution begins and ends (R170, R171) -/

theorem Link.mayExecute_iff (k : Link) :
    k.mayExecute = true ↔ k.executing = none ∧ k.held = false ∧ k.placesTaken < Config.replyPlaces := by
  simp [Link.mayExecute, and_assoc]

theorem Link.nextFrame_some {f : Frame} (h : k.nextFrame = some f) :
    k.executing = none ∧ k.placesTaken < Config.replyPlaces ∧ k.waiting.head? = some f := by
  unfold Link.nextFrame at h
  split at h
  · next hm =>
    obtain ⟨he, -, hp⟩ := (Link.mayExecute_iff k).mp hm
    exact ⟨he, hp, h⟩
  · cases h

/-- A link that begins executing is not the one whose Commit waits for its check. -/
theorem Part.LockLaw.begin (h : s.LockLaw noLink) {f : Frame} (hf : (s.link l).nextFrame = some f) :
    (s.begin l f).LockLaw (onlyLink l) := by
  obtain ⟨hnone, hplace, -⟩ := Link.nextFrame_some hf
  have hl := h.links l
  have hidle : s.manager.checking l = false := by
    have := hl.executing
    rw [hnone] at this
    simpa using this.symm
  refine h.setBusy (fun m hm => decide_eq_false hm) (fun _ => hidle) ⟨⟨?_, ?_⟩, ?_, hl.authority, hl.heartbeat⟩
  · exact le_trans (by simp) hl.queues.1
  · unfold Link.placesTaken at hplace ⊢
    rw [hnone] at hplace
    simpa using hplace
  · simp

theorem Part.LockLaw.ended (h : s.LockLaw (onlyLink l)) {v : Link} (hv : (s.link l).LockLaw (s.active.link l) true →
    v.LockLaw (s.active.link l) false) : (s.setLink l v).LockLaw noLink := by
  have hidle := h.apart l (by simp)
  refine h.setBusy (fun m hm => (decide_eq_false hm).symm) nofun ?_
  rw [hidle]
  exact hv (by simpa [onlyLink] using h.links l)

theorem Part.LockLaw.conclude (h : s.LockLaw (onlyLink l)) (f : Frame) (ans : Answer) : (s.conclude l f ans).LockLaw noLink :=
  (h.ended fun hl => hl.finish f ans).serve

theorem Part.LockLaw.repeatReply (h : s.LockLaw (onlyLink l)) (x : Reply) : (s.repeatReply l x).LockLaw noLink :=
  (h.ended (v := { (s.link l).place x with executing := none }) fun hl => hl.ended (x := x) rfl rfl rfl rfl rfl).serve

/-- The law where a request's block has done its part: its link executes it still, unless the block leaves its Commit to wait
for the check. -/
abbrev Part.Served (l : LinkId) (x : Part × Option Answer) : Prop := x.1.LockLaw (if x.2.isSome then onlyLink l else noLink)

/-- A frame's execution keeps the law if its block does, which a link asks that has the authority (R172, R173). -/
theorem Part.LockLaw.execute {q : RequestKind} {mine : List Byte → Bool}
    {body : LinkId → List Byte → Part → Part × Option Answer} (h : s.LockLaw noLink)
    (hb : ∀ bs t, t.LockLaw (onlyLink l) → (t.link l).authority.allows q.needs = true → Part.Served l (body l bs t)) :
    (s.execute l q mine body).LockLaw noLink := by
  unfold Part.execute
  split
  · exact h
  · next f hf =>
    split
    · have hbegun := h.begin hf
      simp only
      split
      · exact hbegun.repeatReply _
      · split
        · exact hbegun.conclude f _
        · split
          · exact hbegun.conclude f _
          · next ha =>
            have hdone := hb f.body _ hbegun (Bool.eq_true_of_not_eq_false ha)
            split
            · next heq =>
              rw [heq] at hdone
              exact Part.LockLaw.conclude hdone f _
            · next heq =>
              rw [heq] at hdone
              exact Part.LockLaw.serve hdone
    · exact h

theorem Part.LockLaw.request {q : RequestKind} {body : LinkId → List Byte → Part → Part × Answer} (h : s.LockLaw noLink)
    (hb : ∀ bs t, t.LockLaw (onlyLink l) → (t.link l).authority.allows q.needs = true →
      (body l bs t).1.LockLaw (onlyLink l)) : (s.request l q body).LockLaw noLink :=
  h.execute (body := fun l b s => ((body l b s).1, some (body l b s).2)) hb

/-- A request whose block changes neither link, nor the lock, nor the configuration. -/
theorem Part.LockLaw.request_locks {q : RequestKind} {body : LinkId → List Byte → Part → Part × Answer} (h : s.LockLaw noLink)
    (hb : ∀ bs t, (body l bs t).1.locks = t.locks) : (s.request l q body).LockLaw noLink :=
  h.request fun bs t ht _ => ht.of_locks (hb bs t)

theorem Part.LockLaw.executeUnknown (h : s.LockLaw noLink) (l : LinkId) : (s.executeUnknown l).LockLaw noLink := by
  unfold Part.executeUnknown
  split
  · exact h
  · next f hf =>
    have hbegun := h.begin hf
    split
    · simp only
      split
      · exact hbegun.repeatReply _
      · exact hbegun.conclude f _
    · exact h

/-! ## The lock changed (R147) -/

/-- A change of the lock that leaves the Commit that waits, and names no new holder. -/
theorem Part.LockLaw.setManager (h : s.LockLaw busy) {m : Manager} (hm : m.LockLaw)
    (hh : ∀ l, m.holder = some l → (s.active.link l).authority = .configure)
    (hc : ∀ l, m.checking l = s.manager.checking l) : Part.LockLaw busy { s with manager := m } := by
  refine ⟨hm, hh, fun l hl => (hc l).trans (h.apart l hl), fun l => ?_⟩
  rw [Part.setManager_link]
  change (s.link l).LockLaw (s.active.link l) (busy l || m.checking l)
  rw [hc l]
  exact h.links l

theorem Manager.checking_of_none {m : Manager} (h : m.check = none) (l : LinkId) : m.checking l = false := by
  unfold Manager.checking
  rw [h]
  rfl

theorem Manager.heldBy_iff (m : Manager) (l : LinkId) : m.heldBy l = true ↔ m.holder = some l := decide_eq_true_iff

/-- No check runs while the holder executes another request. -/
theorem Part.LockLaw.unchecked (h : s.LockLaw busy) (hl : busy l = true) (hh : s.manager.holder = some l) :
    s.manager.check = none := by
  have hc := h.apart l hl
  unfold Manager.checking at hc
  rw [(Manager.heldBy_iff ..).mpr hh, Bool.and_true] at hc
  exact Option.isNone_iff_eq_none.mp (by rw [← Option.not_isSome, hc]; rfl)

/-- The links that are busy, and the holder whose check has ended with its Commit still to be answered. -/
theorem Part.LockLaw.endCheck (h : s.LockLaw busy) (hc : s.manager.check ≠ none) (hh : s.manager.holder = some l) :
    Part.LockLaw (fun m => busy m || decide (m = l)) { s with manager := { s.manager with check := none } } := by
  refine ⟨⟨h.lock.staging, h.lock.id, fun hn => absurd rfl hn⟩, h.authority, fun m _ => Manager.checking_of_none rfl m,
    fun m => ?_⟩
  have hm := h.links m
  have hchecking : s.manager.checking m = decide (m = l) := by
    unfold Manager.checking Manager.heldBy
    rw [Option.isSome_iff_ne_none.mpr hc, hh, Bool.true_and]
    exact decide_eq_decide.mpr ⟨fun he => (Option.some.inj he).symm, fun he => by rw [he]⟩
  rw [hchecking] at hm
  rw [Part.setManager_link, Manager.checking_of_none rfl, Bool.or_false]
  exact hm

/-- A running check abandoned: its holder's Commit is answered (R157). -/
theorem Part.LockLaw.abandonCheck (h : s.LockLaw busy) :
    s.abandonCheck.LockLaw busy ∧ s.abandonCheck.manager = { s.manager with check := none } := by
  unfold Part.abandonCheck
  split
  · next d x hc hh =>
    have hended := h.endCheck (by rw [hc]; nofun) hh
    have hx := hended.links x
    rw [Manager.checking_of_none rfl] at hx
    simp only [decide_true, Bool.or_true, Bool.or_false] at hx
    have hfree : busy x = false := Bool.eq_false_iff.mpr fun hb => by
      have hn := h.unchecked hb hh
      rw [hc] at hn
      cases hn
    simp only
    split
    · next f hf =>
      refine ⟨hended.setBusy (fun m hm => by simp [hm]) (fun hb => by rw [hfree] at hb; cases hb) ?_, Part.setLink_manager ..⟩
      rw [hfree, Manager.checking_of_none rfl]
      exact hx.finish f _
    · next hn =>
      have he := hx.executing
      rw [hn] at he
      cases he
  · next hn =>
    refine ⟨h, ?_⟩
    cases hc : s.manager.check with
    | none => rw [← hc]
    | some d =>
      cases hh : s.manager.holder with
      | none => exact absurd hh (h.lock.check (by rw [hc]; nofun))
      | some x => exact absurd hh (hn d x hc)

/-- The session ended, with no check running: no link holds it (R153, R160). -/
theorem Part.LockLaw.dropSession (h : s.LockLaw busy) (hc : s.manager.check = none) :
    Part.LockLaw busy { s with manager := { s.manager with holder := none, sessionId := 0, staging := none } } := by
  refine h.setManager ⟨rfl, ⟨fun _ => rfl, fun _ => rfl⟩, fun hn => absurd hc hn⟩ nofun fun l => ?_
  rw [Manager.checking_of_none hc]
  exact Manager.checking_of_none (m := { s.manager with holder := none, sessionId := 0, staging := none }) hc l

theorem Part.LockLaw.loseSession (h : s.LockLaw busy) (o : LinkId) (hc : s.manager.check = none) :
    (s.loseSession o).LockLaw busy := by
  unfold Part.loseSession
  split
  · exact h
  · exact (h.dropSession hc).of_locks rfl

theorem Part.LockLaw.endForRestart (h : s.LockLaw busy) (o : LinkId) : (s.endForRestart o).LockLaw busy := by
  obtain ⟨hended, hm⟩ := h.abandonCheck
  exact hended.loseSession o (by rw [hm])

end Sys2Proof.Machine
end


section
/-! SUPPORT. The operations and requests that change neither a link's queues, nor the session lock, nor a configuration. -/

namespace Sys2Proof.Machine

variable {s : Part}

/-! ## Operations -/

theorem Part.ite_locks {c : Prop} [Decidable c] {t u : Part} (ht : t.locks = s.locks) (hu : u.locks = s.locks) :
    (if c then t else u).locks = s.locks := by
  split
  · exact ht
  · exact hu

theorem Part.act_locks (o : Origin) (f : Env → Alarm → Alarm) (s : Part) : (s.act o f).settleRelays.locks = s.locks := rfl

theorem Part.brought_locks (o : Origin) (ps : List PointId) (v : PointId → Bool) (s : Part) :
    (s.brought o ps v).locks = s.locks := rfl

theorem Part.resolveAll_locks (o : Origin) (src : Source) (s : Part) : (s.resolveAll o (s.pointsOn src)).locks = s.locks := by
  rw [Part.resolveAll_eq o _ s (s.pointsOn_nodup src)]
  exact Part.brought_locks ..

theorem Part.asserted_locks (l : LinkId) (v : Bool) (ps : List PointId) (s : Part) :
    (ps.foldl (Part.assertOne l v) s).locks = s.locks :=
  (congrArg Part.locks (Part.foldl_asserted l v ps s).frame).trans rfl

theorem Part.scan_locks (levels : BitVec 24) (s : Part) : (s.scan levels).locks = s.locks := by
  rw [Part.scan_eq]
  exact Part.brought_locks ..

theorem Part.changeTestSet_locks (o : Origin) (ts : TestSet) (s : Part) : (s.changeTestSet o ts).locks = s.locks := by
  rcases Part.changeTestSet_cases o ts s with ⟨-, h⟩ | ⟨-, b, h⟩ | ⟨-, b, h⟩ <;> rw [h] <;> rfl

theorem Part.keyAction_locks (k : KeyId) (s : Part) : (s.keyAction k).locks = s.locks := by
  cases k with
  | ack => exact Part.act_locks ..
  | silence => exact Part.act_locks ..
  | reset => exact Part.act_locks ..
  | test => exact Part.changeTestSet_locks ..

theorem Part.keyPressed_locks (k : KeyId) (s : Part) : (s.keyPressed k).locks = s.locks := by
  unfold Part.keyPressed
  refine Part.ite_locks rfl ((Part.keyAction_locks k _).trans ?_)
  exact Part.ite_locks rfl rfl

theorem Part.keyReleased_locks (k : KeyId) (s : Part) : (s.keyReleased k).locks = s.locks := by
  cases k with
  | test => exact Part.ite_locks (Part.changeTestSet_locks ..) rfl
  | ack => rfl
  | silence => rfl
  | reset => rfl

theorem Part.keySteady_locks (k : KeyId) (s : Part) : (s.keySteady k).locks = s.locks := by
  unfold Part.keySteady
  simp only
  split
  · exact Part.keyPressed_locks k _
  · exact Part.keyReleased_locks k _
  · rfl
  · rfl

/-! ## The blocks of requests -/

theorem assertBody_locks (v : Bool) (l : LinkId) (b : List Byte) (s : Part) : (assertBody v l b s).1.locks = s.locks := by
  unfold assertBody
  split
  · rfl
  · simp only [Part.assertAll_fst]
    exact Part.asserted_locks ..

theorem actionBody_locks (f : Env → Alarm → Alarm × Nat) (l : LinkId) (b : List Byte) (s : Part) :
    (actionBody f l b s).1.locks = s.locks := rfl

theorem acknowledgePointBody_locks (l : LinkId) (b : List Byte) (s : Part) :
    (acknowledgePointBody l b s).1.locks = s.locks := by
  unfold acknowledgePointBody
  split
  · rfl
  · split_ifs <;> rfl

theorem resetPointBody_locks (l : LinkId) (b : List Byte) (s : Part) : (resetPointBody l b s).1.locks = s.locks := by
  unfold resetPointBody
  split
  · rfl
  · split_ifs <;> rfl

theorem unshelvePointBody_locks (l : LinkId) (b : List Byte) (s : Part) : (unshelvePointBody l b s).1.locks = s.locks := by
  unfold unshelvePointBody
  split
  · rfl
  · split_ifs <;> rfl

theorem shelvePointBody_locks (l : LinkId) (b : List Byte) (s : Part) : (shelvePointBody l b s).1.locks = s.locks := by
  unfold shelvePointBody
  simp only
  split
  · rfl
  · split
    · rfl
    · split
      · rfl
      · rfl
      all_goals split_ifs <;> rfl

theorem testBeginBody_locks (l : LinkId) (b : List Byte) (s : Part) : (testBeginBody l b s).1.locks = s.locks := by
  unfold testBeginBody
  simp only
  split
  · rfl
  · exact Part.changeTestSet_locks (.link l) _ s

theorem testEndBody_locks (l : LinkId) (b : List Byte) (s : Part) : (testEndBody l b s).1.locks = s.locks := by
  unfold testEndBody
  split
  · rfl
  · exact Part.changeTestSet_locks (.link l) _ s

theorem Part.subscribeFrom_locks (l : LinkId) (n credits : Nat) (x : SeqPlace) (s : Part) :
    (s.subscribeFrom l n credits x).1.locks = s.locks := by
  cases x <;> rfl

theorem subscribeBody_locks (l : LinkId) (b : List Byte) (s : Part) : (subscribeBody l b s).1.locks = s.locks := by
  unfold subscribeBody
  simp only
  split_ifs
  · rfl
  · rfl
  · rfl
  · rfl
  · rfl
  · exact Part.subscribeFrom_locks ..

theorem grantCreditsBody_locks (l : LinkId) (b : List Byte) (s : Part) : (grantCreditsBody l b s).1.locks = s.locks := by
  unfold grantCreditsBody
  simp only
  split_ifs <;> rfl

end Sys2Proof.Machine
end


section
/-! SUPPORT. The laws of the queues, the session lock and the links' copies through the requests that change them. -/

namespace Sys2Proof.Machine

variable {s : Part} {l : LinkId}

/-! ## Requests on a link -/

theorem Part.LockLaw.newEpoch {busy : LinkId → Bool} (h : s.LockLaw busy) (hl : busy l = true) (n : Nat) :
    (s.newEpoch l n).LockLaw busy := by
  have hepoch := (h.of_locks (t := s.append { kind := .epoch, origin := .link l, detail := some n }) rfl).setLink
    (v := { (s.append { kind := .epoch, origin := .link l, detail := some n }).link l with epoch := n, cache := none })
    (by rw [Part.append_link]; exact ⟨(h.links l).queues, (h.links l).executing, (h.links l).authority, (h.links l).heartbeat⟩)
  unfold Part.newEpoch
  simp only [Part.dropAssertions_eq]
  refine Part.LockLaw.of_locks ?_ (Part.asserted_locks l false allPoints _)
  generalize (s.append { kind := .epoch, origin := .link l, detail := some n }).setLink l _ = u at hepoch ⊢
  have hended : Part.LockLaw busy { u with alarm := { u.alarm with journal := u.alarm.journal.endStream l } } :=
    hepoch.of_locks rfl
  split
  · next hh => exact hended.loseSession l (hended.unchecked hl ((Manager.heldBy_iff ..).mp hh))
  · exact hended

theorem helloBody_lockLaw (b : List Byte) (h : s.LockLaw (onlyLink l)) : (helloBody l b s).1.LockLaw (onlyLink l) := by
  unfold helloBody
  simp only
  split
  · exact h
  · split
    · exact h
    · exact h.newEpoch (decide_eq_true rfl) _

theorem readLinkStatusBody_lockLaw {busy : LinkId → Bool} (b : List Byte) (h : s.LockLaw busy) :
    (readLinkStatusBody l b s).1.LockLaw busy := by
  unfold readLinkStatusBody
  split
  · exact h
  · next n _ =>
    split
    · exact h
    · simp only
      split
      · exact h.setLink ⟨(h.links n).queues, (h.links n).executing, (h.links n).authority, (h.links n).heartbeat⟩
      · exact h

/-! ## The session (R148, R149, R151, R152) -/

theorem sessionIdAfter_pos (n : Nat) : sessionIdAfter n ≠ 0 := by
  unfold sessionIdAfter
  split <;> omega

theorem Authority.eq_configure {x : Authority} (h : x.allows .configure = true) : x = .configure := by
  cases x with
  | configure => rfl
  | observe => cases h
  | operate => cases h

/-- Only a link with CONFIGURE opens a session (R148, R173). -/
theorem openSessionBody_lockLaw {busy : LinkId → Bool} (b : List Byte) (h : s.LockLaw busy)
    (ha : (s.link l).authority.allows .configure = true) : (openSessionBody l b s).1.LockLaw busy := by
  unfold openSessionBody
  split
  · next hfree =>
    have hcheck : s.manager.check = none := by_contra fun hc => h.lock.check hc hfree
    refine Part.LockLaw.of_locks (h.setManager (m := { s.manager with
      holder := some l
      sessionId := sessionIdAfter s.manager.idCounter
      idCounter := sessionIdAfter s.manager.idCounter
      staging := some s.active }) ⟨rfl, ⟨fun hz => absurd hz (sessionIdAfter_pos _), nofun⟩, fun _ => nofun⟩ ?_ ?_) rfl
    · rintro m hm
      cases hm
      rw [← (h.links l).authority]
      exact Authority.eq_configure ha
    · intro m
      rw [Manager.checking_of_none hcheck]
      exact Manager.checking_of_none (m := { s.manager with
        holder := some l
        sessionId := sessionIdAfter s.manager.idCounter
        idCounter := sessionIdAfter s.manager.idCounter
        staging := some s.active }) hcheck m
  · split <;> exact h

theorem Part.holder_of_heldBy (h : ¬s.manager.heldBy l = false) : s.manager.holder = some l :=
  (Manager.heldBy_iff ..).mp (Bool.eq_true_of_not_eq_false h)

theorem closeSessionBody_lockLaw {busy : LinkId → Bool} (b : List Byte) (h : s.LockLaw busy) (hl : busy l = true) :
    (closeSessionBody l b s).1.LockLaw busy := by
  unfold closeSessionBody
  split
  · exact h
  · next hh => exact (h.dropSession (h.unchecked hl (Part.holder_of_heldBy hh))).of_locks rfl

/-- The staging of a held session replaced. -/
theorem Part.LockLaw.setStaging {busy : LinkId → Bool} (h : s.LockLaw busy) (hh : s.manager.holder = some l)
    (c : Configuration) : (s.setStaging c).LockLaw busy :=
  h.setManager (m := { s.manager with staging := some c }) ⟨by rw [hh]; rfl, h.lock.id, h.lock.check⟩ h.authority
    fun _ => rfl

theorem Part.LockLaw.stageRecord {busy : LinkId → Bool} {name : Except Answer RecordName} {position : Nat}
    {fields : RecordName → List (Nat × Bool)} {write : RecordName → Configuration → Configuration} (h : s.LockLaw busy) :
    (s.stageRecord l name position fields write).1.LockLaw busy := by
  unfold Part.stageRecord
  split
  · exact h
  · next hh =>
    split
    · exact h
    · split
      · exact h
      · exact h.setStaging (Part.holder_of_heldBy hh) _

theorem discardBody_lockLaw {busy : LinkId → Bool} (b : List Byte) (h : s.LockLaw busy) :
    (discardBody l b s).1.LockLaw busy := by
  unfold discardBody
  split
  · exact h
  · next hh => exact h.setStaging (Part.holder_of_heldBy hh) _

/-! ## Commit and Restart (R154, R160, R162) -/

/-- A check begun: the Commit that its link executes waits for it (R154). -/
theorem Part.LockLaw.beginCheck (h : s.LockLaw (onlyLink l)) (hh : s.manager.holder = some l) (d n : Nat) :
    Part.LockLaw noLink { s with manager := { s.manager with check := some d }, free := n } := by
  have hchecking (m : LinkId) : Manager.checking { s.manager with check := some d } m = decide (m = l) := by
    unfold Manager.checking Manager.heldBy
    rw [hh, Option.isSome_some, Bool.true_and]
    exact decide_eq_decide.mpr ⟨fun he => (Option.some.inj he).symm, fun he => by rw [he]⟩
  refine ⟨⟨h.lock.staging, h.lock.id, fun _ => by rw [hh]; nofun⟩, h.authority, nofun, fun m => ?_⟩
  have hm := h.links m
  rw [Manager.checking_of_none (h.unchecked (decide_eq_true rfl) hh), Bool.or_false] at hm
  rw [show ({ s with manager := { s.manager with check := some d }, free := n } : Part).link m = s.link m by cases m <;> rfl]
  change (s.link m).LockLaw (s.active.link m) (false || Manager.checking { s.manager with check := some d } m)
  rw [hchecking, Bool.false_or]
  exact hm

theorem commitBody_served (b : List Byte) (h : s.LockLaw (onlyLink l)) : Part.Served l (commitBody l b s) := by
  unfold commitBody
  split
  · exact h
  · next hh => exact h.beginCheck (Part.holder_of_heldBy hh) _ _

theorem restartWarmBody_served (b : List Byte) (h : s.LockLaw (onlyLink l)) : Part.Served l (restartWarmBody l b s) := by
  unfold restartWarmBody
  split
  · exact h
  · exact (h.endForRestart l).of_locks rfl

theorem restartColdBody_served (b : List Byte) (h : s.LockLaw (onlyLink l)) : Part.Served l (restartColdBody l b s) := by
  unfold restartColdBody
  split
  · exact h
  · have hended := h.endForRestart l
    generalize s.endForRestart l = u at hended ⊢
    have hdrain (x : Option LinkId) : Part.LockLaw (onlyLink l) { u with manager := { u.manager with drain := x } } :=
      hended.setManager (m := { u.manager with drain := x }) ⟨hended.lock.staging, hended.lock.id, hended.lock.check⟩
        hended.authority fun _ => rfl
    have hlink := (hdrain (if u.manager.drain.isNone then some l else u.manager.drain)).links l
    exact (hdrain _).setLink ⟨hlink.queues, hlink.executing, hlink.authority, hlink.heartbeat⟩

end Sys2Proof.Machine
end


section
/-! SUPPORT. The laws of the queues, the session lock and the links' copies through the events and every command. -/

namespace Sys2Proof.Machine

variable {s : Part} {l : LinkId}

/-! ## The commit check's end (R154, R156, R158) -/

/-- A check that passes has passed C5: its holder's link keeps CONFIGURE (R155). -/
theorem Configuration.check_authority {c : Configuration} (h : c.check l = .passed) : (c.link l).authority = .configure := by
  obtain ⟨h1, h2, h3, h4⟩ := Configuration.check_passed h
  unfold Configuration.check at h
  rw [h1, h2, h3, h4] at h
  simp only at h
  split at h
  · next h5 => exact of_decide_eq_true h5
  · cases h

/-- A commit apply gives each link its new record, and leaves the lock and the queues (R158, R179). -/
theorem Part.LockLaw.applyCommit {busy : LinkId → Bool} (h : s.LockLaw busy) {c : Configuration}
    (hh : s.manager.holder = some l) (hc : c.check l = .passed) : (s.applyCommit c l).LockLaw busy := by
  obtain ⟨ha, hm⟩ := Part.applyCommit_frame c l s
  have hchecking (m : LinkId) : (s.applyCommit c l).manager.checking m = s.manager.checking m := by rw [hm]; rfl
  refine ⟨?_, fun m hmh => ?_, fun m hb => ?_, fun m => ?_⟩
  · rw [hm]; exact ⟨h.lock.staging, h.lock.id, h.lock.check⟩
  · rw [hm] at hmh
    rw [ha, ← Option.some.inj (hh.symm.trans hmh)]
    exact Configuration.check_authority hc
  · rw [hchecking]; exact h.apart m hb
  · rw [hchecking, ha, Part.applyCommit_link, Link.applyRecord_spec]
    exact ⟨(h.links m).queues, (h.links m).executing, rfl, rfl⟩

theorem Part.LockLaw.concludeCheck {busy : LinkId → Bool} (h : s.LockLaw busy) (hh : s.manager.holder = some l) :
    (s.concludeCheck l).1.LockLaw busy := by
  unfold Part.concludeCheck
  simp only
  split
  · exact h
  · next hc => exact h.applyCommit hh hc

theorem Part.LockLaw.completeCheck (h : s.LockLaw noLink) (hc : s.manager.check ≠ none) : s.completeCheck.LockLaw noLink := by
  unfold Part.completeCheck
  split
  · next hn => exact absurd hn (h.lock.check hc)
  · next x hh =>
    have hbusy : (fun m => noLink m || decide (m = x)) = onlyLink x := funext fun m => Bool.false_or _
    have hdone := (hbusy ▸ h.endCheck hc hh).concludeCheck (l := x) hh
    simp only
    split
    · next f _ => exact hdone.ended fun hx => hx.finish f _
    · next hn =>
      have hx := (hdone.links x).executing
      rw [hn] at hx
      simp [onlyLink] at hx

theorem Timer.due_ne_none {now : Nat} {t : Timer} (h : Timer.due now t = true) : t ≠ none := fun hn => by
  rw [hn] at h
  cases h

/-! ## Characters, silence, the transmitter's end -/

theorem Part.LockLaw.heard {busy : LinkId → Bool} (h : s.LockLaw busy) (l : LinkId) : (s.heard l).LockLaw busy := by
  have hlink (x : LinkState) (d : Timer) : (s.setLink l { s.link l with state := x, supervision := d }).LockLaw busy :=
    h.setLink ⟨(h.links l).queues, (h.links l).executing, (h.links l).authority, (h.links l).heartbeat⟩
  unfold Part.heard
  simp only
  split
  · exact h.setLink ⟨(h.links l).queues, (h.links l).executing, (h.links l).authority, (h.links l).heartbeat⟩
  · exact (hlink .live _).of_locks rfl
  · exact (hlink .live _).of_locks (Part.resolveAll_locks (.link l) (.silent l) _)

theorem Part.LockLaw.fallSilent {busy : LinkId → Bool} (h : s.LockLaw busy) (l : LinkId) : (s.fallSilent l).LockLaw busy := by
  have hlink : (s.setLink l { s.link l with state := .silent, supervision := none }).LockLaw busy :=
    h.setLink ⟨(h.links l).queues, (h.links l).executing, (h.links l).authority, (h.links l).heartbeat⟩
  unfold Part.fallSilent
  refine Part.LockLaw.of_locks ?_ (Part.resolveAll_locks (.link l) (.silent l) _)
  generalize s.setLink l _ = u at hlink ⊢
  have hsilent : Part.LockLaw busy { u.append { kind := .linkSilent, origin := .link l } with
      alarm := { (u.append { kind := .linkSilent, origin := .link l }).alarm with
        journal := (u.append { kind := .linkSilent, origin := .link l }).alarm.journal.zeroCredits l } } :=
    hlink.of_locks rfl
  simp only
  split
  · exact hsilent.endForRestart l
  · exact hsilent

/-- A frame joins the receive queue while there is a place, and a BUSY reply the reply queue (R170). -/
theorem Link.LockLaw.enqueue {r : LinkConfig} {x : Bool} {k : Link} (h : k.LockLaw r x) (f : Frame) :
    (k.enqueue f).LockLaw r x := by
  unfold Link.enqueue
  simp only
  split
  · next hw => exact ⟨⟨by simpa using Nat.succ_le_of_lt hw, h.queues.2⟩, h.executing, h.authority, h.heartbeat⟩
  · split
    · next hp =>
      refine ⟨⟨h.queues.1, ?_⟩, h.executing, h.authority, h.heartbeat⟩
      unfold Link.placesTaken Link.place at *
      simp only [List.length_append, List.length_singleton] at *
      omega
    · exact ⟨h.queues, h.executing, h.authority, h.heartbeat⟩

/-- A change of a link's framer, its gap timer and its error counters. -/
theorem Part.LockLaw.setFramer {busy : LinkId → Bool} (h : s.LockLaw busy) (l : LinkId) (x : Framer) (d : Timer)
    (m n : Nat) : (s.setLink l { s.link l with framer := x, gapTimer := d, framingErrors := m, crcErrors := n }).LockLaw busy :=
  h.setLink ⟨(h.links l).queues, (h.links l).executing, (h.links l).authority, (h.links l).heartbeat⟩

theorem Part.LockLaw.completeFrame {busy : LinkId → Bool} (h : s.LockLaw busy) (l : LinkId) (taken : List Byte)
    (crc : BitVec 16) : (s.completeFrame l taken crc).LockLaw busy := by
  have hidle := h.setFramer l .hunt none (s.link l).framingErrors (s.link l).crcErrors
  unfold Part.completeFrame
  simp only
  split
  · have hheard := hidle.heard l
    exact hheard.setLink ((hheard.links l).enqueue _)
  · exact hidle.setFramer l _ _ _ _

theorem Part.LockLaw.takeCharacter {busy : LinkId → Bool} (h : s.LockLaw busy) (l : LinkId) (c : RxChar) :
    (s.takeCharacter l c).LockLaw busy := by
  have hframer (x : Framer) (d : Timer) (n : Nat) := h.setFramer l x d n (s.link l).crcErrors
  unfold Part.takeCharacter
  simp only
  split
  · split
    · exact hframer _ _ _
    · exact h
  · exact h
  · split <;> exact hframer _ _ _
  · exact hframer _ _ _
  · split <;> exact hframer _ _ _
  · exact hframer _ _ _
  · exact hframer _ _ _
  · exact h.completeFrame l _ _
  · exact hframer _ _ _

theorem Part.LockLaw.ite {busy : LinkId → Bool} {c : Prop} [Decidable c] {t u : Part} (ht : t.LockLaw busy)
    (hu : u.LockLaw busy) : (if c then t else u).LockLaw busy := by
  split
  · exact ht
  · exact hu

theorem Part.LockLaw.receive {busy : LinkId → Bool} (h : s.LockLaw busy) (l : LinkId) (c : RxChar) :
    (s.receive l c).LockLaw busy :=
  Part.LockLaw.takeCharacter (.ite (h.setFramer l _ _ _ _) h) l c

theorem Part.LockLaw.gapExpired {busy : LinkId → Bool} (h : s.LockLaw busy) (l : LinkId) : (s.gapExpired l).LockLaw busy :=
  .ite (h.setFramer l _ _ _ _) h

/-- After a full reset no link waits, executes or holds, and every copy is a default (R163). -/
theorem Part.fullReset_lockLaw (p : Straps) (s : Part) : (s.fullReset p).LockLaw noLink := by
  have hreset : Part.reset.LockLaw noLink := (Part.lockLaw_iff _).mpr
    ⟨⟨by unfold Link.QueueLaw; decide, by unfold Link.QueueLaw; decide⟩, Part.reset_sessionLaw, fun l => by cases l <;> exact ⟨rfl, rfl⟩⟩
  exact hreset.of_locks rfl

theorem Part.LockLaw.transmitted (h : s.LockLaw noLink) (l : LinkId) (p : Straps) : (s.transmitted l p).LockLaw noLink := by
  unfold Part.transmitted
  simp only
  split
  · exact h
  · split
    · exact Part.fullReset_lockLaw p s
    · next x _ _ =>
      refine Part.LockLaw.serve (h.setLink ⟨⟨(h.links l).queues.1, le_trans ?_ (h.links l).queues.2⟩, (h.links l).executing,
        (h.links l).authority, (h.links l).heartbeat⟩)
      refine Nat.add_le_add_right ?_ _
      cases x.isReply
      · exact le_rfl
      · simp

/-! ## Commands and steps -/

theorem State.run_lockLaw {f : Part → Part} {s t : State} (h : s.run f = .next t) (hf : (f s.toPart).LockLaw noLink) :
    t.LockLaw noLink := by
  cases h
  exact hf

theorem exec_lockLaw {c : Instr} {s t : State} (h : exec c s = .next t) (hs : s.LockLaw noLink) : t.LockLaw noLink := by
  have hkept {f : Part → Part} (h : s.run f = .next t) (hf : (f s.toPart).locks = s.locks) : t.LockLaw noLink :=
    State.run_lockLaw h (hs.of_locks hf)
  have hthen {c : Prop} [Decidable c] {u : Part} (hu : u.locks = s.locks) : (if c then u.serve else s.toPart).LockLaw noLink :=
    .ite (hs.of_locks hu).serve hs
  cases c with
  | hello l => exact State.run_lockLaw h (hs.request fun b _ ht _ => helloBody_lockLaw b ht)
  | ping l => exact State.run_lockLaw h (hs.request_locks fun _ _ => rfl)
  | readLinkStatus l => exact State.run_lockLaw h (hs.request fun b _ ht _ => readLinkStatusBody_lockLaw b ht)
  | readPoint l => exact State.run_lockLaw h (hs.request_locks fun b u => congrArg Part.locks (readPointBody_fst l b u))
  | readSummary l => exact State.run_lockLaw h (hs.request_locks fun _ _ => rfl)
  | readLines l => exact State.run_lockLaw h (hs.request_locks fun _ _ => rfl)
  | readGroups l => exact State.run_lockLaw h (hs.request_locks fun _ _ => rfl)
  | readShelf l => exact State.run_lockLaw h (hs.request_locks fun _ _ => rfl)
  | readSounders l => exact State.run_lockLaw h (hs.request_locks fun _ _ => rfl)
  | readPanel l => exact State.run_lockLaw h (hs.request_locks fun _ _ => rfl)
  | raise l => exact State.run_lockLaw h (hs.request_locks (assertBody_locks true l))
  | clear l => exact State.run_lockLaw h (hs.request_locks (assertBody_locks false l))
  | acknowledgeAll l => exact State.run_lockLaw h (hs.request_locks (actionBody_locks Alarm.ackAll l))
  | acknowledgePoint l => exact State.run_lockLaw h (hs.request_locks (acknowledgePointBody_locks l))
  | silence l => exact State.run_lockLaw h (hs.request_locks (actionBody_locks Alarm.silence l))
  | resetAll l => exact State.run_lockLaw h (hs.request_locks (actionBody_locks Alarm.resetAll l))
  | resetPoint l => exact State.run_lockLaw h (hs.request_locks (resetPointBody_locks l))
  | shelvePoint l => exact State.run_lockLaw h (hs.request_locks (shelvePointBody_locks l))
  | unshelvePoint l => exact State.run_lockLaw h (hs.request_locks (unshelvePointBody_locks l))
  | testBegin l => exact State.run_lockLaw h (hs.request_locks (testBeginBody_locks l))
  | testEnd l => exact State.run_lockLaw h (hs.request_locks (testEndBody_locks l))
  | chirp l => exact State.run_lockLaw h (hs.request_locks fun _ _ => rfl)
  | subscribe l => exact State.run_lockLaw h (hs.request_locks (subscribeBody_locks l))
  | grantCredits l => exact State.run_lockLaw h (hs.request_locks (grantCreditsBody_locks l))
  | unsubscribe l => exact State.run_lockLaw h (hs.request_locks fun _ _ => rfl)
  | fetch l => exact State.run_lockLaw h (hs.request_locks fun b u => congrArg Part.locks (fetchBody_fst l b u))
  | setClock l => exact State.run_lockLaw h (hs.request_locks fun _ _ => rfl)
  | openSession l => exact State.run_lockLaw h (hs.request fun b _ ht ha => openSessionBody_lockLaw b ht ha)
  | stagePoint l => exact State.run_lockLaw h (hs.request fun _ _ ht _ => ht.stageRecord)
  | stageLine l => exact State.run_lockLaw h (hs.request fun _ _ ht _ => ht.stageRecord)
  | stageTone l => exact State.run_lockLaw h (hs.request fun _ _ ht _ => ht.stageRecord)
  | stageRelay l => exact State.run_lockLaw h (hs.request fun _ _ ht _ => ht.stageRecord)
  | stageLink l => exact State.run_lockLaw h (hs.request fun _ _ ht _ => ht.stageRecord)
  | stageGlobal l => exact State.run_lockLaw h (hs.request fun _ _ ht _ => ht.stageRecord)
  | readStaged l => exact State.run_lockLaw h (hs.request_locks fun b u => congrArg Part.locks (readStagedBody_fst l b u))
  | readActive l => exact State.run_lockLaw h (hs.request_locks fun b u => congrArg Part.locks (readActiveBody_fst l b u))
  | discard l => exact State.run_lockLaw h (hs.request fun b _ ht _ => discardBody_lockLaw b ht)
  | commit l => exact State.run_lockLaw h (hs.execute fun b _ ht _ => commitBody_served b ht)
  | closeSession l =>
    exact State.run_lockLaw h (hs.request fun b _ ht _ => closeSessionBody_lockLaw b ht (decide_eq_true rfl))
  | restartWarm l => exact State.run_lockLaw h (hs.execute fun b _ ht _ => restartWarmBody_served b ht)
  | restartCold l => exact State.run_lockLaw h (hs.execute fun b _ ht _ => restartColdBody_served b ht)
  | unknownKind l => exact State.run_lockLaw h (hs.executeUnknown l)
  | lineScan levels =>
    have hscan : ((s.present levels).scan levels).locks = s.locks := Part.scan_locks levels (s.present levels)
    exact State.run_lockLaw h (.ite (hs.of_locks (t := ((s.present levels).scan levels).settleRelays) hscan).serve
      (hs.of_locks (t := s.present levels) rfl))
  | keySample k w => exact hkept h (Part.ite_locks rfl rfl)
  | keySteadyExpiry k => exact State.run_lockLaw h (hthen (Part.keySteady_locks k s.toPart))
  | reminderExpiry n =>
    change execReminderExpiry n s = _ at h
    unfold execReminderExpiry at h
    split at h
    · exact State.run_lockLaw h (hthen (Part.act_locks ..))
    · cases h
  | shelfExpiry =>
    refine State.run_lockLaw h ?_
    unfold Part.shelfExpired
    split
    · exact hs
    · exact Part.LockLaw.serve (hs.of_locks rfl)
  | chatterWindowExpiry n =>
    change execChatterWindowExpiry n s = _ at h
    unfold execChatterWindowExpiry at h
    split at h
    · exact hkept h (Part.ite_locks rfl rfl)
    · cases h
  | cadencePhaseExpiry c => exact hkept h (Part.ite_locks rfl rfl)
  | escalationStep c => exact hkept h (Part.ite_locks rfl rfl)
  | chirpTimerExpiry c => exact hkept h (Part.ite_locks rfl rfl)
  | messageTestExpiry l =>
    exact State.run_lockLaw h (hthen (Part.changeTestSet_locks .timer (s.panel.testSet.setLink l false) s.toPart))
  | lampRefresh => exact hkept h (Part.ite_locks rfl rfl)
  | commitCheckCompletion =>
    refine State.run_lockLaw h ?_
    unfold Part.checkExpired
    split
    · next hd => exact (hs.completeCheck (Timer.due_ne_none hd)).serve
    · exact hs
  | receiveCharacter l c => exact State.run_lockLaw (f := fun p => (p.receive l c).serve) h (hs.receive l c).serve
  | intraFrameGapExpiry l =>
    change execIntraFrameGapExpiry l s = _ at h
    unfold execIntraFrameGapExpiry at h
    split at h
    · cases h; exact hs
    · exact State.run_lockLaw h (hs.gapExpired l)
  | supervisionExpiry l => exact State.run_lockLaw h (.ite (hs.fallSilent l).serve hs)
  | transmitComplete l p => exact State.run_lockLaw h (hs.transmitted l p)
  | fullReset p => exact State.run_lockLaw (f := fun u => u.fullReset p) h (Part.fullReset_lockLaw p s.toPart)

/-- A step is a command waiting, the part's own work, or a millisecond. -/
theorem step_lockLaw {s t : State} (h : step s = .next t) (hs : s.LockLaw noLink) : t.LockLaw noLink := by
  unfold step at h
  split at h
  · next rest _ => exact exec_lockLaw (s := ⟨s.toPart, rest⟩) h hs
  · split at h
    · exact exec_lockLaw (s := ⟨s.chosen, s.pending⟩) h (hs.of_locks rfl)
    · cases h
      exact ((hs.gapExpired .a).gapExpired .b).of_locks rfl

end Sys2Proof.Machine
end


section
/-! SUPPORT. The copies that the Input Qualifier and the Sounder Controller hold of the active configuration, through every
change (R30, R78, R86, R159). -/

namespace Sys2Proof.Machine

variable {s t : Part} {c : Configuration}

/-! ## The Sounder Controller's copies (R78, R86) -/

/-- The Sounder Controller holds a configuration's profiles and its DUAL. -/
structure Sounder.Copies (c : Configuration) (x : Sounder) : Prop where
  tones : x.tones = c.tones
  dual : x.dual = c.global.dual

variable {x : Sounder}

theorem Sounder.Copies.setChannel (h : x.Copies c) (k : ChanId) (v : Channel) : (x.setChannel k v).Copies c :=
  ⟨(Sounder.setChannel_tones ..).trans h.tones, (Sounder.setChannel_dual ..).trans h.dual⟩

theorem Sounder.Copies.claimAt (h : x.Copies c) (p : PointId) (level : Option Level) (stamp : Nat) :
    (x.claimAt p level stamp).Copies c := by
  cases level with
  | none => exact ⟨h.tones, h.dual⟩
  | some v => cases v <;> exact ⟨h.tones, h.dual⟩

theorem Sounder.Copies.assign (h : x.Copies c) (now : Nat) (r : LevelSet) : (x.assign now r).Copies c := ⟨h.tones, h.dual⟩

theorem Sounder.Copies.startTest (h : x.Copies c) (now : Nat) : (x.startTest now).Copies c := ⟨h.tones, h.dual⟩

theorem Sounder.Copies.evaluate (h : x.Copies c) (test : Bool) (now : Nat) (r : LevelSet) : (x.evaluate test now r).Copies c := by
  unfold Sounder.evaluate
  split
  · exact h
  · exact h.assign now r

theorem Sounder.Copies.afterWarm (h : x.Copies c) (test : Bool) (now : Nat) : (x.afterWarm test now).Copies c := by
  unfold Sounder.afterWarm
  split
  · exact h.startTest now
  · exact h.assign now {}

theorem Sounder.Copies.passClaim (h : x.Copies c) (test defer : Bool) (now : Nat) (p : PointId) (level : Option Level)
    (stamp : Nat) : (x.passClaim test defer now p level stamp).Copies c := by
  rcases Sounder.passClaim_cases test defer now p level stamp x with ⟨-, hx⟩ | ⟨-, hx⟩ | ⟨-, -, hx⟩ <;> rw [hx]
  · exact h
  · exact h.claimAt p level stamp
  · exact (h.claimAt p level stamp).assign now {}

theorem Sounder.Copies.chirp (h : x.Copies c) (now : Nat) : (x.chirp now).1.Copies c := by
  unfold Sounder.chirp
  split_ifs <;> exact ⟨h.tones, h.dual⟩

/-- No primitive change of the alarms reaches the Sounder Controller's copies. -/
theorem Sounder.Copies.closed (c : Configuration) (test defer : Bool) (d : Configuration) :
    Alarm.Closed test defer d fun a => a.sounder.Copies c where
  keep _ _ _ _ _ h := h
  claim _ _ _ _ _ _ _ h := Sounder.Copies.passClaim h ..
  append _ _ h := h
  chirp _ h := h.chirp _
  groups _ _ _ _ h := h
  shelf _ _ h := h
  chatter _ _ h := h

theorem Alarm.Turns.copies {e : Env} {a b : Alarm} (h : Alarm.Turns e a b) (ha : a.sounder.Copies c) : b.sounder.Copies c :=
  h.keeps (fun _ _ ht => ht.closed (Sounder.Copies.closed ..)) ha

/-! ## Every change -/

/-- The copies of the line records and of the Sounder Controller's records agree with the active configuration. -/
structure Part.BlockLaw (s : Part) : Prop where
  lines : ∀ n : LineId, s.lines[n].config = s.active.lines[n]
  sounder : s.alarm.sounder.Copies s.active

theorem Part.BlockLaw.congr (h : s.BlockLaw) (ha : t.active = s.active) (hl : t.lines = s.lines)
    (hx : t.alarm.sounder.Copies s.active) : t.BlockLaw :=
  ⟨fun n => by rw [ha, hl]; exact h.lines n, by rw [ha]; exact hx⟩

theorem Part.changeTestSet_copies (o : Origin) (ts : TestSet) (h : s.alarm.sounder.Copies c) :
    (s.changeTestSet o ts).alarm.sounder.Copies c := by
  rcases Part.changeTestSet_cases o ts s with ⟨-, ht⟩ | ⟨-, b, ht⟩ | ⟨-, b, ht⟩ <;> rw [ht]
  · exact h
  · exact h.startTest _
  · exact h.assign _ _

theorem Line.applyRecord_config (r : LineConfig) (x : Line) : (x.applyRecord r).config = r := by
  unfold Line.applyRecord
  split
  · next h => exact h.symm
  · rfl

theorem Part.applyCommit_copies (c : Configuration) (l : LinkId) (s : Part) : (s.applyCommit c l).alarm.sounder.Copies c := by
  refine Part.applyCommit_keeps (P := fun u => u.alarm.sounder.Copies c) (fun _ o ts => Part.changeTestSet_copies o ts)
    (fun _ h => h) ?_
  obtain ⟨-, -, hx, -⟩ := Part.sourced_alarm c l s
  have hcopies : (s.sourced c l).alarm.sounder.Copies c := by rw [hx]; exact ⟨rfl, rfl⟩
  generalize s.sourced c l = u at hcopies
  have happlied := Alarm.apply_closed (P := fun a => a.sounder.Copies c) (e := s.commitEnv c) (Sounder.Copies.closed ..)
    (fun _ _ h => h.passClaim ..) (fun _ _ h => h) s.active hcopies
  exact happlied.evaluate ..

theorem Part.applyCommit_blockLaw (c : Configuration) (l : LinkId) (s : Part) : (s.applyCommit c l).BlockLaw where
  lines n := by rw [(Part.applyCommit_frame c l s).1, Part.applyCommit_lines, Line.applyRecord_config]
  sounder := by rw [(Part.applyCommit_frame c l s).1]; exact Part.applyCommit_copies c l s

/-- A change of conditions and points leaves each line's copy of its record. -/
theorem Part.Acted.lines (h : Part.Acted s t) (hs : s.BlockLaw) (n : LineId) : t.lines[n].config = t.active.lines[n] := by
  cases h with
  | turned a _ => exact hs.lines n
  | asserted l v ps _ =>
    have hf := (Part.foldl_asserted l v ps s).frame
    rw [hf]
    exact hs.lines n
  | scanned levels =>
    rw [Part.scan_eq]
    exact (congrArg Line.config (getElem_tabulate ..)).trans ((Line.scan_config ..).trans (hs.lines n))
  | relinked u l h =>
    rw [Part.resolveAll_eq _ _ _ (Part.pointsOn_nodup ..)]
    change u.lines[n].config = u.active.lines[n]
    rw [h.lines, h.active]
    exact hs.lines n
  | rebuilt => exact hs.lines n
  | applied c l _ _ => exact (Part.applyCommit_blockLaw c l s).lines n

theorem Part.Acted.sounder (h : Part.Acted s t) (hs : s.BlockLaw) : t.alarm.sounder.Copies t.active := by
  rcases h.cases with h | rfl | ⟨c, l, -, -, rfl⟩
  · rw [h.active]
    exact h.keeps (fun a => a.sounder.Copies s.active) (fun _ _ ht => ht.closed (Sounder.Copies.closed ..))
      (fun _ _ p v ha => Alarm.deliver_keeps (Sounder.Copies.closed ..) p v ha) (fun _ _ _ ha => ha) hs.sounder
  · have hcleared : s.alarm.warmClear.sounder.Copies s.active := ⟨hs.sounder.tones, hs.sounder.dual⟩
    exact ((s.alarm.warmPassed_turns (s.env .part)).copies hcleared).afterWarm ..
  · exact (Part.applyCommit_blockLaw c l s).sounder

theorem Part.Change.blockLaw (h : Part.Change s t) (hs : s.BlockLaw) : t.BlockLaw := by
  cases h with
  | beside u h => exact hs.congr h.active h.lines (by rw [h.alarm]; exact hs.sounder)
  | staged c _ => exact hs.congr rfl rfl hs.sounder
  | settled u h => exact ⟨h.lines hs, h.sounder hs⟩
  | still a ht _ _ _ => exact hs.congr rfl rfl (ht.copies hs.sounder)
  | played c v _ _ => exact hs.congr rfl rfl (hs.sounder.setChannel c v)
  | hushed c _ => exact hs.congr rfl rfl (hs.sounder.setChannel c _)
  | tested o ts =>
    have hl : (s.changeTestSet o ts).lines = s.lines := by
      rcases Part.changeTestSet_cases o ts s with ⟨-, h⟩ | ⟨-, b, h⟩ | ⟨-, b, h⟩ <;> rw [h] <;> rfl
    exact hs.congr (Part.changeTestSet_frame o ts s).1 hl (Part.changeTestSet_copies o ts hs.sounder)
  | ticked _ =>
    have h := Part.endCount_beside s
    exact hs.congr h.active h.lines (by change s.endCount.alarm.sounder.Copies _; rw [h.alarm]; exact hs.sounder)
  | reset p => exact ⟨Part.reset_copyLaw.lines, rfl, rfl⟩

theorem Part.copyLaw_iff (s : Part) : s.CopyLaw ↔ s.BlockLaw ∧
    ∀ l, (s.link l).authority = (s.active.link l).authority ∧ (s.link l).heartbeat = (s.active.link l).heartbeat := by
  constructor
  · intro h
    refine ⟨⟨h.lines, h.tones, h.dual⟩, fun l => ?_⟩
    cases l
    · exact h.linkA
    · exact h.linkB
  · rintro ⟨hb, hl⟩
    exact ⟨hb.lines, hb.sounder.tones, hb.sounder.dual, hl .a, hl .b⟩

/-- Settles O57: the queues, the lock and the links' copies command by command, with a link's request in execution as a case
of its own; the other blocks' copies change by change. -/
theorem stepKeepsQueuesSessionAndCopies : Obligations.StepKeepsQueuesSessionAndCopies := by
  unfold Obligations.StepKeepsQueuesSessionAndCopies
  intro s t h hq hs hc
  obtain ⟨hblocks, hlinks⟩ := (Part.copyLaw_iff _).mp hc
  obtain ⟨hq', hs', hlinks'⟩ := (Part.lockLaw_iff _).mp (step_lockLaw h ((Part.lockLaw_iff _).mpr ⟨hq, hs, hlinks⟩))
  exact ⟨hq', hs', (Part.copyLaw_iff _).mpr ⟨step_keeps (fun _ _ => Part.Change.blockLaw) h hblocks, hlinks'⟩⟩

end Sys2Proof.Machine
end


section
/-! SUPPORT. The requests that open and close a session, drop what was staged, and begin a commit check; and the check that
fails (R148, R151, R152, R154, R156). -/

namespace Sys2Proof.Machine

section
variable {s : Part} {l : LinkId} {b : List Byte}

/-! ## Open Session and Close Session (R148, R152) -/

/-- A session opened by a link. -/
def Manager.opened (m : Manager) (l : LinkId) (id : Nat) (c : Configuration) : Manager :=
  { m with holder := some l, sessionId := id, idCounter := id, staging := some c }

/-- The lock freed. -/
def Manager.freed (m : Manager) : Manager := { m with holder := none, sessionId := 0, staging := none }

theorem openSessionBody_free (h : s.manager.holder = none) : openSessionBody l b s =
    (({ s with manager := s.manager.opened l (sessionIdAfter s.manager.idCounter) s.active } : Part).append
      { kind := .sessionOpened, origin := .link l, detail := some (sessionIdAfter s.manager.idCounter) },
    okAnswer (be 1 (sessionIdAfter s.manager.idCounter) ++ be 1 1)) := by
  unfold openSessionBody
  rw [h]
  rfl

theorem openSessionBody_held (h : s.manager.holder = some l) :
    openSessionBody l b s = (s, okAnswer (be 1 s.manager.sessionId ++ be 1 0)) := by
  unfold openSessionBody
  rw [h]
  exact if_pos rfl

theorem openSessionBody_other {k : LinkId} (h : s.manager.holder = some k) (hk : k ≠ l) :
    openSessionBody l b s = (s, refuse .sessionHeld (be 1 (linkCode k))) := by
  unfold openSessionBody
  rw [h]
  exact if_neg hk

theorem closeSessionBody_held (h : s.manager.holder = some l) : closeSessionBody l b s =
    ({ s.append { kind := .sessionClosed, origin := .link l, detail := some s.manager.sessionId } with
      manager := s.manager.freed }, okAnswer (be 1 s.manager.sessionId)) := by
  unfold closeSessionBody
  rw [(Manager.heldBy_iff ..).mpr h]
  rfl

theorem Manager.not_heldBy {m : Manager} (h : m.holder ≠ some l) : m.heldBy l = false := decide_eq_false h

theorem closeSessionBody_refuses (h : s.manager.holder ≠ some l) : closeSessionBody l b s = (s, refuse .noSession) :=
  if_pos (Manager.not_heldBy h)

theorem otherLink_ne (l : LinkId) : otherLink l ≠ l := by cases l <;> nofun

end

/-- Settles O42: the lock's three states at an opening, and the two at a closing, in the part that has begun the frame. -/
theorem sessionsOpenAndClose : Obligations.SessionsOpenAndClose := by
  unfold Obligations.SessionsOpenAndClose
  refine ⟨fun s l f h => ?_, fun s l f h => ?_⟩
  · have hm := Part.begin_manager s.toPart l f
    refine ⟨fun hh => ?_, fun hh => ?_, fun hh => ?_⟩ <;> rw [← hm] at hh
    · rw [← hm, ← Part.begin_active s.toPart l f]
      exact State.run_ready h openSessionBody (openSessionBody_free hh)
    · rw [← hm]
      exact State.run_answered h openSessionBody (openSessionBody_held hh)
    · refine State.run_answered h openSessionBody ((openSessionBody_other hh (otherLink_ne l)).trans ?_)
      cases l <;> rfl
  · have hm := Part.begin_manager s.toPart l f
    refine ⟨fun hh => ?_, fun hh => ?_⟩ <;> rw [← hm] at hh
    · rw [← hm]
      exact State.run_ready h closeSessionBody (closeSessionBody_held hh)
    · exact State.run_answered h closeSessionBody (closeSessionBody_refuses hh)

/-! ## Discard (R151) -/

/-- The differing records, set by set. -/
theorem Configuration.countDiffering_eq (c d : Configuration) : c.countDiffering d =
    allPoints.countP (fun p => c.points[p] ≠ d.points[p]) + allLines.countP (fun n => c.lines[n] ≠ d.lines[n]) +
      [Level.low, .high, .urgent].countP (fun v => c.tones.level v ≠ d.tones.level v) +
      (if c.tones.chirp ≠ d.tones.chirp then 1 else 0) + (if c.tones.test ≠ d.tones.test then 1 else 0) +
      allRelays.countP (fun r => c.relays[r] ≠ d.relays[r]) +
      [LinkId.a, .b].countP (fun k => c.link k ≠ d.link k) + (if c.global ≠ d.global then 1 else 0) := by
  unfold Configuration.countDiffering allRecords
  have htones : [RecordName.tone (.level .low), .tone (.level .high), .tone (.level .urgent), .tone .chirp, .tone .test].countP
      (c.differs d) = [Level.low, .high, .urgent].countP (fun v => c.tones.level v ≠ d.tones.level v) +
        (if c.tones.chirp ≠ d.tones.chirp then 1 else 0) + (if c.tones.test ≠ d.tones.test then 1 else 0) := by
    simp [List.countP_cons, Configuration.differs, ToneSet.differs]
    omega
  have hrest : [RecordName.link .a, .link .b, .global].countP (c.differs d) =
      [LinkId.a, .b].countP (fun k => c.link k ≠ d.link k) + (if c.global ≠ d.global then 1 else 0) := by
    simp [List.countP_cons, Configuration.differs]
    omega
  rw [← List.countP_eq_length_filter, List.countP_append, List.countP_append, List.countP_append, List.countP_append,
    List.countP_map, List.countP_map, List.countP_map, htones, hrest]
  simp only [← Nat.add_assoc]
  rfl

theorem Part.staged_some {s : Part} {c : Configuration} (h : s.manager.staging = some c) : s.staged = c := by
  unfold Part.staged
  rw [h]
  rfl

theorem discardBody_held {s : Part} {l : LinkId} {b : List Byte} {c : Configuration} (h : s.manager.holder = some l)
    (hc : s.manager.staging = some c) :
    discardBody l b s = (s.setStaging s.active, okAnswer (be 1 (c.countDiffering s.active))) := by
  unfold discardBody
  rw [(Manager.heldBy_iff ..).mpr h, Part.staged_some hc]
  rfl

theorem discardBody_refuses {s : Part} {l : LinkId} {b : List Byte} (h : s.manager.holder ≠ some l) :
    discardBody l b s = (s, refuse .noSession) := if_pos (Manager.not_heldBy h)

/-- Settles O45: the count set by set, and the staging replaced in the part that has begun the frame. -/
theorem discardMakesAFreshCopy : Obligations.DiscardMakesAFreshCopy := by
  unfold Obligations.DiscardMakesAFreshCopy
  intro s l f h
  have hm := Part.begin_manager s.toPart l f
  refine ⟨fun c hh hc => ?_, fun hh => ?_⟩ <;> rw [← hm] at hh
  · rw [← hm] at hc ⊢
    rw [← Configuration.countDiffering_eq, ← Part.begin_active s.toPart l f]
    exact State.run_ready h discardBody (discardBody_held hh hc)
  · exact State.run_answered h discardBody (discardBody_refuses hh)

/-! ## Commit, and a check that fails (R154, R156) -/

theorem commitBody_held {s : Part} {l : LinkId} {b : List Byte} (h : s.manager.holder = some l) : commitBody l b s =
    ({ s with
      manager := { s.manager with check := some (clockAfter s.alarm.journal.elapsed (checkTime s.free)) }
      free := s.free + 1 }, none) := by
  unfold commitBody
  rw [(Manager.heldBy_iff ..).mpr h]
  rfl

theorem commitBody_refuses {s : Part} {l : LinkId} {b : List Byte} (h : s.manager.holder ≠ some l) :
    commitBody l b s = (s, some (refuse .noSession)) := if_pos (Manager.not_heldBy h)

/-- The row of Commit on a frame that passes the common checks. -/
theorem exec_commit {s : State} {l : LinkId} {f : Frame} (h : s.Ready l .commit f) : exec (.commit l) s = s.becomes
    (match commitBody l f.body (s.begin l f) with
      | (t, some ans) => t.conclude l f ans
      | (t, none) => t.serve) :=
  congrArg s.becomes (Part.execute_ready commitBody h rfl)

theorem checkTime_bounds (n : Nat) : 1 ≤ checkTime n ∧ checkTime n ≤ 30 := by
  unfold checkTime
  omega

/-- A check that fails is answered, and changes nothing but that it has ended (R156). -/
theorem Part.completeCheck_fails {s : Part} {h : LinkId} {f : Frame} {c : Configuration} {code item : Nat}
    (hh : s.manager.holder = some h) (hc : s.manager.staging = some c) (hf : (s.link h).executing = some f)
    (hfail : c.check h = .failed code item) : s.completeCheck.serve =
      ({ s with manager := { s.manager with check := none } } : Part).conclude h f
        (refuse .checkFailed (be 1 code ++ be 1 item)) := by
  have hanswer : Part.concludeCheck h { s with manager := { s.manager with check := none } } =
      ({ s with manager := { s.manager with check := none } }, refuse .checkFailed (be 1 code ++ be 1 item)) := by
    unfold Part.concludeCheck
    rw [Part.staged_some (s := { s with manager := { s.manager with check := none } }) hc]
    simp only [hfail]
  have hlink : (({ s with manager := { s.manager with check := none } } : Part).link h).executing = some f := by
    cases h <;> exact hf
  unfold Part.completeCheck
  rw [hh]
  simp only [hanswer, hlink]
  rfl

/-- Settles O46: the block of Commit in its two answers; the check's end with the holder, its staging and its frame as they
stand. -/
theorem commitsAreCheckedFirst : Obligations.CommitsAreCheckedFirst := by
  unfold Obligations.CommitsAreCheckedFirst
  refine ⟨fun s l f h => ?_, fun s h f c d code item hd hdue hh hc hf hfail => ?_⟩
  · have hm := Part.begin_manager s.toPart l f
    rw [exec_commit h]
    refine ⟨fun hh => ⟨checkTime s.free, (checkTime_bounds _).1, (checkTime_bounds _).2, ?_⟩, fun hh => ?_⟩ <;>
      rw [← hm] at hh
    · rw [commitBody_held hh, hm, Part.begin_free, ← Part.begin_alarm s.toPart l f]
    · rw [commitBody_refuses hh]
      rfl
  · change s.becomes s.checkExpired = _
    unfold Part.checkExpired
    rw [hd, if_pos (Timer.due_some hdue), Part.completeCheck_fails hh hc hf hfail]

end Sys2Proof.Machine
end


section
/-! SUPPORT. Restart COLD: the session step, the link held back, and the bodies of the two rows of Restart (R157, R160, R162);
and the full reset it brings (R163). -/

namespace Sys2Proof.Machine

variable {l : LinkId} {f : Frame}

/-! ## The bodies of Restart (log 4) -/

theorem field_singleton (x : Byte) : field [x] 0 1 = x.toNat := by simp [field, fromBe]

/-- A Restart that passes the common checks has one character. -/
theorem Part.Ready.restart_body {s : Part} (h : s.Ready l .restart f) : ∃ x, f.body = [x] := by
  have hlen := h.length
  unfold RequestKind.lengthOk RequestKind.lengths at hlen
  simp only [Bool.and_eq_true, decide_eq_true_eq] at hlen
  exact List.length_eq_one_iff.mp (by omega)

theorem Part.Ready.warmBodies_iff {s : Part} (h : s.Ready l .restart f) : warmBodies f.body = true ↔ field f.body 0 1 ≠ 1 := by
  obtain ⟨x, hx⟩ := h.restart_body
  unfold warmBodies
  rw [hx, field_singleton, decide_eq_true_iff]
  simp [← BitVec.toNat_inj]

theorem Part.Ready.coldBodies_iff {s : Part} (h : s.Ready l .restart f) : coldBodies f.body = true ↔ field f.body 0 1 ≠ 0 := by
  obtain ⟨x, hx⟩ := h.restart_body
  unfold coldBodies
  rw [hx, field_singleton, decide_eq_true_iff]
  simp [← BitVec.toNat_inj]

/-- A row leaves alone a Restart whose body is the other row's. -/
theorem Part.execute_restart_skip {s : Part} {mine : List Byte → Bool}
    {body : LinkId → List Byte → Part → Part × Option Answer} (h : s.Ready l .restart f) (hm : mine f.body ≠ true) :
    s.execute l .restart mine body = s :=
  Part.execute_skip body fun g hg hk => hm (by rw [← Option.some.inj (hg.symm.trans h.next)]; exact hk.2)

/-! ## The session step and the link held back (R160, R162) -/

/-- A check abandoned for another link's Restart leaves that link's queues alone. -/
theorem Part.StopsCheck.link {s c : Part} (h : Part.StopsCheck l s c) : c.link l = s.link l := by
  rcases h with ⟨-, rfl⟩ | ⟨k, g, d, hk, -, -, -, rfl⟩
  · rfl
  · rw [Part.setManager_link, Part.setLink_link_ite, if_neg (Ne.symm hk)]

theorem Part.loseSession_link (o k : LinkId) (s : Part) : (s.loseSession o).link k = s.link k := by
  unfold Part.loseSession
  split
  · rfl
  · rw [Part.append_link, Part.setManager_link]

theorem Part.loseSession_drain (o : LinkId) (s : Part) : (s.loseSession o).manager.drain = s.manager.drain := by
  unfold Part.loseSession
  split <;> rfl

theorem Part.loseSession_ite (o : LinkId) (s : Part) : s.loseSession o = if s.manager.holder = none then s
    else ({ s with manager := { s.manager with holder := none, sessionId := 0, staging := none } } : Part).append
      { kind := .sessionLost, origin := .link o, detail := some s.manager.sessionId } := by
  unfold Part.loseSession
  split
  · next h => rw [if_pos h]
  · next h => rw [if_neg (by rw [h]; nofun)]

/-- Restart COLD: what its block leaves, from what the session step leaves. -/
theorem restartColdBody_eq {s u : Part} {b : List Byte} (hb : field b 0 1 = 1) (hu : s.endForRestart l = u) :
    restartColdBody l b s = (Part.setLink
        { u with manager := { u.manager with drain := if u.manager.drain.isNone then some l else u.manager.drain } } l
        { u.link l with held := true },
      some { status := .ok, data := be 4 0, resets := u.manager.drain.isNone }) := by
  unfold restartColdBody
  rw [if_neg (not_not.mpr hb), hu]
  simp only [Part.setManager_link]

theorem exec_restartCold {s : State} (h : s.Ready l .restart f) (hf : field f.body 0 1 ≠ 0) :
    exec (.restartCold l) s = s.becomes (match restartColdBody l f.body (s.begin l f) with
      | (t, some ans) => t.conclude l f ans
      | (t, none) => t.serve) :=
  congrArg s.becomes (Part.execute_ready restartColdBody h (h.coldBodies_iff.mpr hf))

theorem exec_restartWarm_row {s : State} (h : s.Ready l .restart f) (hf : field f.body 0 1 ≠ 1) :
    exec (.restartWarm l) s = s.becomes (match restartWarmBody l f.body (s.begin l f) with
      | (t, some ans) => t.conclude l f ans
      | (t, none) => t.serve) :=
  congrArg s.becomes (Part.execute_ready restartWarmBody h (h.warmBodies_iff.mpr hf))

/-- Settles O50: the session step by the check that is abandoned and the session that is lost; then the drain, free or not. -/
theorem restartColdAndAbandonedChecks : Obligations.RestartColdAndAbandonedChecks := by
  unfold Obligations.RestartColdAndAbandonedChecks
  refine ⟨?_, fun s l f h => ⟨fun hf => ?_, fun hf => ?_, fun hf => ⟨?_, ?_⟩⟩⟩
  · intro s l f c h hf hc ended
    have hm : c.manager = { s.manager with check := none } := by rw [hc.frame.1, Part.begin_manager]
    have hended : (s.begin l f).endForRestart l = ended := by
      unfold Part.endForRestart
      rw [hc.abandonCheck, Part.loseSession_ite, show c.manager.holder = s.manager.holder by rw [hm],
        show c.manager.sessionId = s.manager.sessionId by rw [hm]]
    have hstep : ended = c.loseSession l := by rw [← hended, Part.endForRestart, hc.abandonCheck]
    have hdrain : ended.manager.drain = s.manager.drain := by rw [hstep, Part.loseSession_drain, hm]
    have hlink : ended.link l = (s.begin l f).link l := by rw [hstep, Part.loseSession_link, hc.link]
    rw [exec_restartCold h (by omega), restartColdBody_eq hf hended, hlink]
    refine ⟨fun hd => ?_, fun k hd => ?_⟩
    · rw [hdrain, hd]
      rfl
    · have hsame : ({ ended with manager := { ended.manager with
          drain := if ended.manager.drain.isNone then some l else ended.manager.drain } } : Part) = ended := by
        rw [hdrain, hd, Option.isNone_some, if_neg Bool.false_ne_true, ← hd, ← hdrain]
      rw [hsame, hdrain, hd]
      rfl
  · exact congrArg s.becomes (Part.execute_restart_skip h fun hb => h.coldBodies_iff.mp hb hf)
  · exact congrArg s.becomes (Part.execute_restart_skip h fun hb => h.warmBodies_iff.mp hb hf)
  · rw [exec_restartCold h (by omega), restartColdBody, if_pos (by omega)]
    rfl
  · rw [exec_restartWarm_row h (by omega), restartWarmBody, if_pos (by omega)]
    rfl

/-! ## Full reset (R163) -/

/-- Settles O4: field by field of the part's reset values. -/
theorem fullResetGivesEveryDefault : Obligations.FullResetGivesEveryDefault := by
  unfold Obligations.FullResetGivesEveryDefault
  intro s p
  refine ⟨s.fullReset p, rfl, rfl, rfl, fun n => ?_, fun q => getElem_replicate_fin .., fun q => getElem_replicate_fin ..,
    fun g => getElem_replicate_fin .., rfl, fun q => getElem_replicate_fin .., fun q => getElem_replicate_fin .., fun c => ?_,
    fun v => ?_, rfl, rfl, rfl, fun k => ?_, rfl, rfl, rfl, rfl, fun q => getElem_replicate_fin ..,
    fun r => getElem_replicate_fin .., rfl, rfl, rfl, rfl, rfl, fun l => ?_, fun l => ?_, rfl⟩
  · have hn : (s.fullReset p).lines[n] = {} := getElem_replicate_fin ..
    rw [hn]
    exact ⟨rfl, rfl, rfl⟩
  · cases c <;> exact ⟨rfl, rfl, rfl, rfl, fun _ => rfl⟩
  · cases v <;> rfl
  · cases k <;> rfl
  · cases l <;> rfl
  · cases l <;> rfl

end Sys2Proof.Machine
end


section
/-! SUPPORT. The Stage requests: the checks in order, and the record that is written (R149, R187). -/

namespace Sys2Proof.Machine

/-! ## A record's checks and its writing -/

section
variable {s : Part} {l : LinkId} {name : Except Answer RecordName} {position : Nat}
  {fields : RecordName → List (Nat × Bool)} {write : RecordName → Configuration → Configuration} {n : RecordName}

theorem Part.stageRecord_noSession (h : s.manager.holder ≠ some l) :
    s.stageRecord l name position fields write = (s, refuse .noSession) := if_pos (Manager.not_heldBy h)

/-- With the session held, the record's name decides. -/
theorem Part.stageRecord_name {e : Answer} (h : s.manager.holder = some l) :
    s.stageRecord l (.error e) position fields write = (s, e) := by
  unfold Part.stageRecord
  rw [(Manager.heldBy_iff ..).mpr h]
  rfl

theorem Part.stageRecord_field {i v : Nat} (h : s.manager.holder = some l)
    (hbad : firstBad position (fields n) = some (i, v)) :
    s.stageRecord l (.ok n) position fields write = (s, refuseRange i v) := by
  unfold Part.stageRecord
  rw [(Manager.heldBy_iff ..).mpr h]
  simp only [hbad]
  rfl

theorem Part.stageRecord_writes {c : Configuration} (h : s.manager.holder = some l) (hc : s.manager.staging = some c)
    (hgood : firstBad position (fields n) = none) :
    s.stageRecord l (.ok n) position fields write = s.stage n (write n c) := by
  unfold Part.stageRecord
  rw [(Manager.heldBy_iff ..).mpr h, Part.staged_some hc]
  simp only [hgood]
  rfl

end

/-! ## The rows of the Stage requests -/

/-- The row of `k` stages the record that `name` reads from the body, whose own characters are those `rec` gives and whose
first field has this position. -/
def RequestKind.Stages (k : RequestKind) (name : List Byte → Except Answer RecordName) (position : Nat)
    (rec : List Byte → List Byte) : Prop :=
  ∀ (l : LinkId) (b : List Byte) (s : State), exec (requestCommand l b k) s = s.run (·.request l k fun l b s =>
    s.stageRecord l (name b) position (recordFields (rec b)) (Configuration.withRecord (rec b)))

/-- The row of `k` stages a record of a set, named by the first character. -/
abbrev RequestKind.StagesSet (k : RequestKind) (set : Nat) : Prop := k.Stages (stageName set) 2 (List.drop 1)

theorem stagePoint_stages : RequestKind.StagesSet .stagePoint 0 := fun _ _ _ => rfl

theorem stageLine_stages : RequestKind.StagesSet .stageLine 1 := fun _ _ _ => rfl

theorem stageTone_stages : RequestKind.StagesSet .stageTone 2 := fun _ _ _ => rfl

theorem stageRelay_stages : RequestKind.StagesSet .stageRelay 3 := fun _ _ _ => rfl

theorem stageLink_stages : RequestKind.StagesSet .stageLink 4 := fun _ _ _ => rfl

theorem stageGlobal_stages : RequestKind.Stages .stageGlobal (fun _ => .ok .global) 1 id := fun _ _ _ => rfl

section
variable {k : RequestKind} {name : List Byte → Except Answer RecordName} {position : Nat} {rec : List Byte → List Byte}
  {s : State} {l : LinkId} {f : Frame}

theorem RequestKind.Stages.noSession (hk : k.Stages name position rec) (h : s.Ready l k f)
    (hh : s.manager.holder ≠ some l) :
    exec (requestCommand l f.body k) s = s.becomes (s.answered l f (refuse .noSession)) :=
  (hk l f.body s).trans (State.run_answered h _ (Part.stageRecord_noSession (by rwa [Part.begin_manager])))

theorem RequestKind.Stages.nameOut (hk : k.Stages name position rec) (h : s.Ready l k f)
    (hh : s.manager.holder = some l) {e : Answer} (hn : name f.body = .error e) :
    exec (requestCommand l f.body k) s = s.becomes (s.answered l f e) := by
  refine (hk l f.body s).trans (State.run_answered h _ ?_)
  simp only [hn]
  exact Part.stageRecord_name (by rwa [Part.begin_manager])

/-- The first field out of the record's table is named by its position. -/
theorem RequestKind.Stages.fieldOut (hk : k.Stages name position rec) (h : s.Ready l k f)
    (hh : s.manager.holder = some l) {n : RecordName} (hn : name f.body = .ok n) {t : FieldTable}
    (ht : recordFields (rec f.body) n = t.checks (rec f.body)) {i v : Nat} (hout : firstOut t (rec f.body) i v) :
    exec (requestCommand l f.body k) s =
      s.becomes (s.answered l f (refuse .range (be 1 (position + i) ++ be 4 v))) := by
  refine (hk l f.body s).trans (State.run_answered h _ ?_)
  simp only [hn]
  exact Part.stageRecord_field (by rwa [Part.begin_manager]) (by rw [ht]; exact FieldTable.firstBad_out hout position)

/-- A record with every field in its table is written into the staging, and the reply says whether it differs. -/
theorem RequestKind.Stages.writes (hk : k.Stages name position rec) (h : s.Ready l k f)
    (hh : s.manager.holder = some l) {c : Configuration} (hc : s.manager.staging = some c) {n : RecordName}
    (hn : name f.body = .ok n) {t : FieldTable} (ht : recordFields (rec f.body) n = t.checks (rec f.body))
    (hfit : fits t (rec f.body)) {b : Bool} (hb : (c.withRecord (rec f.body) n).differs s.active n = b) :
    exec (requestCommand l f.body k) s = s.becomes
      (({ s.begin l f with manager := { s.manager with staging := some (c.withRecord (rec f.body) n) } } : Part).conclude l f
        (okAnswer (be 1 (if b then 1 else 0)))) := by
  have hm := Part.begin_manager s.toPart l f
  refine (hk l f.body s).trans (State.run_ready h _ ?_)
  simp only [hn]
  rw [← hm] at hh hc
  rw [Part.stageRecord_writes hh hc (by rw [ht]; exact FieldTable.firstBad_fits hfit position), Part.stage, Part.setStaging, hm,
    Part.begin_active, hb]
  rfl

end

/-! ## The names of the records (R150, R187) -/

theorem profile?_above {n : Nat} (h : 4 < n) : profile? n = none := by
  match n with
  | n + 5 => rfl

theorem link?_above {n : Nat} (h : 1 < n) : link? n = none := by
  match n with
  | n + 2 => rfl

theorem recordName_point (p : PointId) : recordName 0 p.val = .ok (.point p) := by
  simp only [recordName, point?_val]
  rfl

theorem recordName_line (n : LineId) : recordName 1 n.val = .ok (.line n) := by
  simp only [recordName, line?_val]
  rfl

theorem recordName_tone {n : Nat} {t : ProfileId} (h : profile? n = some t) : recordName 2 n = .ok (.tone t) := by
  simp only [recordName, h]
  rfl

theorem recordName_relay (r : RelayId) : recordName 3 r.val = .ok (.relay r) := by
  simp only [recordName, relay?_val]
  rfl

theorem recordName_link (l : LinkId) : recordName 4 (linkCode l) = .ok (.link l) := by
  simp only [recordName, link?_code]
  rfl

/-- The number of record names in a set that has them (R145). -/
def namesIn : Nat → Nat
  | 0 => 96
  | 1 => 24
  | 2 => 5
  | 3 => 3
  | 4 => 2
  | _ => 0

/-- A name out of its set's range is refused as field 2. -/
theorem recordName_out {set n : Nat} (hs : set ≤ 4) (h : namesIn set ≤ n) : recordName set n = .error (refuseRange 2 n) := by
  match set with
  | 0 =>
    simp only [recordName, point?_above (Nat.lt_of_succ_le h)]
    rfl
  | 1 =>
    have hl : line? n = none := dif_neg (Nat.not_lt.mpr h)
    simp only [recordName, hl]
    rfl
  | 2 =>
    simp only [recordName, profile?_above (Nat.lt_of_succ_le h)]
    rfl
  | 3 =>
    have hr : relay? n = none := dif_neg (Nat.not_lt.mpr h)
    simp only [recordName, hr]
    rfl
  | 4 =>
    simp only [recordName, link?_above (Nat.lt_of_succ_le h)]
    rfl

theorem stageName_ok {set : Nat} {b : List Byte} {n : RecordName} (h : recordName set (field b 0 1) = .ok n) :
    stageName set b = .ok n := by
  unfold stageName
  rw [h]

theorem stageName_out {set : Nat} {b : List Byte} (hs : set ≤ 4) (h : namesIn set ≤ field b 0 1) :
    stageName set b = .error (refuseRange 1 (field b 0 1)) := by
  unfold stageName
  rw [recordName_out hs h]

/-- The tables of the records' fields (R149). -/
def RecordName.table : RecordName → FieldTable
  | .point _ => pointTable
  | .line _ => lineTable
  | .tone t => toneTable t
  | .relay _ => relayTable
  | .link _ => linkTable
  | .global => globalTable

theorem recordFields_eq (r : List Byte) (n : RecordName) : recordFields r n = n.table.checks r := by
  cases n with
  | point p => exact pointFields_eq r
  | line i => exact lineFields_eq r
  | tone t => exact toneFields_eq r t
  | relay i => exact relayFields_eq r
  | link k => exact linkFields_eq r
  | global => exact globalFields_eq r

/-- A number below the size of a set whose records have one table names one of them. -/
theorem stageName_below {set : Nat} {b : List Byte} {t : FieldTable}
    (hs : (set, t) ∈ [(0, pointTable), (1, lineTable), (3, relayTable), (4, linkTable)]) (h : field b 0 1 < namesIn set) :
    ∃ n : RecordName, stageName set b = .ok n ∧ n.table = t := by
  simp only [List.mem_cons, Prod.mk.injEq, List.not_mem_nil, or_false] at hs
  rcases hs with ⟨rfl, rfl⟩ | ⟨rfl, rfl⟩ | ⟨rfl, rfl⟩ | ⟨rfl, rfl⟩
  · exact ⟨_, stageName_ok (recordName_point ⟨_, h⟩), rfl⟩
  · exact ⟨_, stageName_ok (recordName_line ⟨_, h⟩), rfl⟩
  · exact ⟨_, stageName_ok (recordName_relay ⟨_, h⟩), rfl⟩
  · have hl : ∃ k, field b 0 1 = linkCode k := by
      rcases Nat.lt_succ_iff_lt_or_eq.mp h with h0 | h1
      · exact ⟨.a, Nat.lt_one_iff.mp h0⟩
      · exact ⟨.b, h1⟩
    obtain ⟨k, hk⟩ := hl
    exact ⟨.link k, stageName_ok (hk ▸ recordName_link k), rfl⟩

/-- Settles O44: the session, the name and the fields in their order, for every set by its row. -/
theorem stageRequestsRefuseInOrder : Obligations.StageRequestsRefuseInOrder := by
  unfold Obligations.StageRequestsRefuseInOrder
  intro s l f
  have hname {k : RequestKind} {set : Nat} (hk : k.StagesSet set) (hs : set ≤ 4) (h : s.Ready l k f)
      (hh : s.manager.holder = some l) (hn : namesIn set ≤ field f.body 0 1) : exec (requestCommand l f.body k) s =
        s.becomes (s.answered l f (refuse .range (be 1 1 ++ be 4 (field f.body 0 1)))) :=
    hk.nameOut h hh (stageName_out hs hn)
  have hfield {k : RequestKind} {set i v : Nat} {n : RecordName} (hk : k.StagesSet set) (h : s.Ready l k f)
      (hh : s.manager.holder = some l) (hn : stageName set f.body = .ok n) (hout : firstOut n.table (f.body.drop 1) i v) :
      exec (requestCommand l f.body k) s = s.becomes (s.answered l f (refuse .range (be 1 (i + 2) ++ be 4 v))) := by
    rw [Nat.add_comm]
    exact hk.fieldOut h hh hn (recordFields_eq ..) hout
  refine ⟨fun k hk h hh => ?_, fun x hx h hh hn => ?_, fun x hx i v h hh hn hout => ?_, fun t i v h hh ht hout => ?_,
    fun i v h hh hout => ?_⟩
  · simp only [List.mem_cons, List.not_mem_nil, or_false] at hk
    rcases hk with rfl | rfl | rfl | rfl | rfl | rfl
    · exact stagePoint_stages.noSession h hh
    · exact stageLine_stages.noSession h hh
    · exact stageTone_stages.noSession h hh
    · exact stageRelay_stages.noSession h hh
    · exact stageLink_stages.noSession h hh
    · exact stageGlobal_stages.noSession h hh
  · simp only [List.mem_cons, List.not_mem_nil, or_false] at hx
    rcases hx with rfl | rfl | rfl | rfl | rfl
    · exact hname stagePoint_stages (by decide) h hh hn
    · exact hname stageLine_stages (by decide) h hh hn
    · exact hname stageTone_stages (by decide) h hh hn
    · exact hname stageRelay_stages (by decide) h hh hn
    · exact hname stageLink_stages (by decide) h hh hn
  · have hbelow {set : Nat} {t : FieldTable} (hk : x.1.StagesSet set)
        (hs : (set, t) ∈ [(0, pointTable), (1, lineTable), (3, relayTable), (4, linkTable)])
        (hn : field f.body 0 1 < namesIn set) (hout : firstOut t (f.body.drop 1) i v) :
        exec (requestCommand l f.body x.1) s = s.becomes (s.answered l f (refuse .range (be 1 (i + 2) ++ be 4 v))) := by
      obtain ⟨n, hname, rfl⟩ := stageName_below hs hn
      exact hfield hk h hh hname hout
    simp only [List.mem_cons, List.not_mem_nil, or_false] at hx
    rcases hx with rfl | rfl | rfl | rfl
    · exact hbelow stagePoint_stages (by simp) hn hout
    · exact hbelow stageLine_stages (by simp) hn hout
    · exact hbelow stageRelay_stages (by simp) hn hout
    · exact hbelow stageLink_stages (by simp) hn hout
  · exact hfield stageTone_stages h hh (stageName_ok (recordName_tone ht)) hout
  · rw [Nat.add_comm]
    exact stageGlobal_stages.fieldOut h hh rfl (recordFields_eq ..) hout

/-! ## What a record's fields give (R1, R30, R78, R113, R145) -/

theorem sequenceOf_code {v : Nat} (h : v ≤ 2) : (sequenceOf v).code = v := by
  interval_cases v <;> rfl

theorem priorityOf_code {v : Nat} (h : v ≤ 3) : (priorityOf v).code = v := by
  interval_cases v <;> rfl

theorem sourceOf_code {v : Nat} (h : v ≤ 28) : (sourceOf v).code = v := by
  interval_cases v <;> rfl

theorem relayModeOf_code {v : Nat} (h : v ≤ 3) : (relayModeOf v).code = v := by
  interval_cases v <;> rfl

theorem authorityOf_code {v : Nat} (h : v ≤ 2) : (authorityOf v).code = v := by
  interval_cases v <;> rfl

/-- A group field reads back as its number, or as 255 for none. -/
theorem group?_orNone {v : Nat} (h : v ≤ 7 ∨ v = 255) : orNone (group? v) = v := by
  unfold group?
  split
  · rfl
  · next hv => exact (h.resolve_left fun hle => hv (Nat.lt_succ_of_le hle)).symm

theorem point?_orNone {v : Nat} (h : v ≤ 95 ∨ v = 255) : orNone (point? v) = v := by
  unfold point?
  split
  · rfl
  · next hv => exact (h.resolve_left fun hle => hv (Nat.lt_succ_of_le hle)).symm

theorem polarityOf_code {v : Nat} (h : v ≤ 1) : (if v = 0 then Polarity.activeLow else .activeHigh).code = v := by
  interval_cases v <;> rfl

theorem pointRecordOf_codes {r : List Byte} (h : fits pointTable r) :
    (pointRecordOf r).sequence.code = field r 1 1 ∧ (pointRecordOf r).priority.code = field r 2 1 ∧
      (pointRecordOf r).source.code = field r 3 1 ∧ orNone (pointRecordOf r).group = field r 4 1 ∧
      orNone (pointRecordOf r).suppressor = field r 5 1 := by
  simp only [fits, pointTable, List.forall_mem_cons, decide_eq_true_eq] at h
  obtain ⟨-, hsequence, hpriority, hsource, hgroup, hsuppressor, -⟩ := h
  exact ⟨sequenceOf_code hsequence, priorityOf_code hpriority, sourceOf_code hsource, group?_orNone hgroup,
    point?_orNone hsuppressor⟩

theorem lineRecordOf_code {r : List Byte} (h : fits lineTable r) : (lineRecordOf r).polarity.code = field r 0 1 := by
  simp only [fits, lineTable, List.forall_mem_cons, decide_eq_true_eq] at h
  exact polarityOf_code h.1

theorem linkRecordOf_code {r : List Byte} (h : fits linkTable r) : (linkRecordOf r).authority.code = field r 0 1 := by
  simp only [fits, linkTable, List.forall_mem_cons, decide_eq_true_eq] at h
  exact authorityOf_code h.1

theorem field_drop (b : List Byte) (n i size : Nat) : field (b.drop n) i size = field b (n + i) size := by
  unfold field
  rw [List.drop_drop]

theorem fits_relayTable (r : List Byte) : fits relayTable r ↔ field r 0 1 ≤ 3 := by
  simp [fits, relayTable]

/-! ## The record as it then stands against the active one -/

section
variable (c d : Configuration) (r : List Byte)

theorem Configuration.withRecord_point_differs (p : PointId) :
    (c.withRecord r (.point p)).differs d (.point p) = decide (pointRecordOf r ≠ d.points[p]) := by
  simp only [Configuration.withRecord, Configuration.differs, getElem_set_fin, if_true]

theorem Configuration.withRecord_line_differs (n : LineId) :
    (c.withRecord r (.line n)).differs d (.line n) = decide (lineRecordOf r ≠ d.lines[n]) := by
  simp only [Configuration.withRecord, Configuration.differs, getElem_set_fin, if_true]

theorem Configuration.withRecord_relay_differs (i : RelayId) :
    (c.withRecord r (.relay i)).differs d (.relay i) = decide (relayModeOf (field r 0 1) ≠ d.relays[i]) := by
  simp only [Configuration.withRecord, Configuration.differs, getElem_set_fin, if_true]

theorem Configuration.withRecord_link_differs (k : LinkId) :
    (c.withRecord r (.link k)).differs d (.link k) = decide (linkRecordOf r ≠ d.link k) := by
  simp only [Configuration.withRecord, Configuration.differs, Configuration.setLink_link]

end

/-- Settles O43: each record's fields read back, and each set's row writing the record that its body names. -/
theorem stageRequestsReplaceOneRecord : Obligations.StageRequestsReplaceOneRecord := by
  unfold Obligations.StageRequestsReplaceOneRecord
  refine ⟨fun r => ⟨fun h => ?_, fun h => ⟨lineRecordOf_code h, rfl, rfl⟩, fun _ _ => rfl, fun _ => rfl, fun _ => rfl,
    fun h => relayModeOf_code ((fits_relayTable r).mp h), fun h => ⟨linkRecordOf_code h, rfl⟩, rfl⟩,
    fun s l f c hh hc => ⟨fun p h hn hfit => ?_, fun n h hn hfit => ?_, fun t h hn hfit => ?_, fun n h hn hfit => ?_,
      fun k h hn hfit => ?_, fun h hfit => ?_⟩⟩
  · obtain ⟨hsequence, hpriority, hsource, hgroup, hsuppressor⟩ := pointRecordOf_codes h
    refine ⟨rfl, hsequence, hpriority, hsource, ?_, ?_, rfl, rfl, rfl, rfl⟩
    · rw [← hgroup]
      cases (pointRecordOf r).group <;> rfl
    · rw [← hsuppressor]
      cases (pointRecordOf r).suppressor <;> rfl
  · exact stagePoint_stages.writes (n := .point p) h hh hc (stageName_ok (hn ▸ recordName_point p)) (recordFields_eq ..) hfit
      (Configuration.withRecord_point_differs ..)
  · exact stageLine_stages.writes (n := .line n) h hh hc (stageName_ok (hn ▸ recordName_line n)) (recordFields_eq ..) hfit
      (Configuration.withRecord_line_differs ..)
  · exact stageTone_stages.writes h hh hc (stageName_ok (recordName_tone hn)) (recordFields_eq ..) hfit rfl
  · have hfield : field (f.body.drop 1) 0 1 = field f.body 1 1 := field_drop ..
    have hrow := stageRelay_stages.writes (n := .relay n) h hh hc (stageName_ok (hn ▸ recordName_relay n)) (recordFields_eq ..)
      ((fits_relayTable _).mpr (hfield.le.trans hfit)) (Configuration.withRecord_relay_differs ..)
    rw [Configuration.withRecord, hfield] at hrow
    exact hrow
  · exact stageLink_stages.writes (n := .link k) h hh hc (stageName_ok (hn ▸ recordName_link k)) (recordFields_eq ..) hfit
      (Configuration.withRecord_link_differs ..)
  · exact stageGlobal_stages.writes h hh hc rfl (recordFields_eq ..) hfit rfl

end Sys2Proof.Machine
end


section
/-! SUPPORT. The answers of Read Active and Read Staged (R150, 11.7). -/

namespace Sys2Proof.Machine

/-! ## A record's characters -/

theorem PointConfig.chars_eq (c : PointConfig) : c.chars =
    be 1 (if c.enabled then 1 else 0) ++ be 1 c.sequence.code ++ be 1 c.priority.code ++ be 1 c.source.code ++
      be 1 (match c.group with | none => 255 | some g => g.val) ++
      be 1 (match c.suppressor with | none => 255 | some q => q.val) ++ be 1 c.chatterLimit ++
      be 1 c.chatterShelveMinutes ++ be 1 c.reminderMinutes ++
      be 1 ((if c.relays.rly0 then 1 else 0) + (if c.relays.rly1 then 2 else 0) + (if c.relays.rly2 then 4 else 0)) := by
  obtain ⟨_, _, _, _, group, suppressor, _, _, _, _⟩ := c
  cases group <;> cases suppressor <;> rfl

/-! ## The names (R150) -/

/-- A set or a name out of its table is refused as the field that is out. -/
theorem recordName_error {set name : Nat} {e : Answer} (h : recordName set name = .error e) :
    e = refuseRange (if set ≤ 5 then 2 else 1) (if set ≤ 5 then name else set) := by
  match set with
  | 0 | 1 | 2 | 3 | 4 =>
    simp only [recordName] at h
    split at h
    · cases h
    · exact (Except.error.inj h).symm
  | 5 => cases h
  | set + 6 =>
    rw [if_neg (by omega), if_neg (by omega)]
    exact (Except.error.inj h).symm

section
variable {s : Part} {l : LinkId} {b : List Byte} {n : RecordName}

theorem readActiveBody_ok (h : recordName (field b 0 1) (field b 1 1) = .ok n) :
    readActiveBody l b s = (s, okAnswer (s.active.recordChars (field b 1 1) n)) := by
  unfold readActiveBody
  rw [h]

theorem readActiveBody_error {e : Answer} (h : recordName (field b 0 1) (field b 1 1) = .error e) :
    readActiveBody l b s = (s, e) := by
  unfold readActiveBody
  rw [h]

theorem readStagedBody_held {c : Configuration} (h : recordName (field b 0 1) (field b 1 1) = .ok n)
    (hh : s.manager.holder = some l) (hc : s.manager.staging = some c) : readStagedBody l b s =
      (s, okAnswer (c.recordChars (field b 1 1) n ++ be 1 (yesNo (c.differs s.active n)))) := by
  unfold readStagedBody
  rw [h, (Manager.heldBy_iff ..).mpr hh, Part.staged_some hc]
  rfl

theorem readStagedBody_refuses (h : recordName (field b 0 1) (field b 1 1) = .ok n) (hh : s.manager.holder ≠ some l) :
    readStagedBody l b s = (s, refuse .noSession) := by
  unfold readStagedBody
  rw [h]
  exact if_pos (Manager.not_heldBy hh)

theorem readStagedBody_error {e : Answer} (h : recordName (field b 0 1) (field b 1 1) = .error e) :
    readStagedBody l b s = (s, e) := by
  unfold readStagedBody
  rw [h]

end

/-- Settles O14: the records' layouts, then the two requests by whether the record's name is in its table. -/
theorem readActiveAndStagedAnswerTheRecord : Obligations.ReadActiveAndStagedAnswerTheRecord := by
  unfold Obligations.ReadActiveAndStagedAnswerTheRecord
  refine ⟨fun c name => ⟨fun p => ?_, fun n => rfl, fun v => rfl, rfl, rfl, fun r => rfl, fun l => rfl, rfl⟩,
    fun s l f => ⟨fun n hn h => ?_, fun n c hn h hh hc => ?_, fun n hn h hh => ?_,
      fun e hn => ⟨recordName_error hn, fun h => ?_, fun h => ?_⟩⟩⟩
  · simp only [Configuration.recordChars, PointConfig.chars_eq, List.append_assoc] <;> rfl
  · exact State.run_answered h _ ((readActiveBody_ok hn).trans (by rw [Part.begin_active]))
  · have hm := Part.begin_manager s.toPart l f
    rw [← hm] at hh hc
    exact State.run_answered h _ ((readStagedBody_held hn hh hc).trans (by rw [Part.begin_active]; rfl))
  · exact State.run_answered h _ (readStagedBody_refuses hn (by rwa [Part.begin_manager]))
  · exact State.run_answered h _ (readActiveBody_error hn)
  · exact State.run_answered h _ (readStagedBody_error hn)

end Sys2Proof.Machine
end


section
/-! SUPPORT. The commit check's five conditions, each by the first item of a table that breaks it (R155). -/

namespace Sys2Proof.Machine

/-! ## The first item in ascending order -/

/-- The first of all the numbers that `p` holds of. -/
theorem find?_finRange_some {n : Nat} {p : Fin n → Bool} {i : Fin n} (hi : p i = true) (hlt : ∀ j, j < i → ¬p j = true) :
    (List.finRange n).find? p = some i := by
  rw [← List.ofFn_id]
  exact (List.find?_ofFn_eq_some_of_injective Function.injective_id).mpr ⟨hi, hlt⟩

theorem find?_finRange_none {n : Nat} {p : Fin n → Bool} (h : ∀ i, ¬p i = true) : (List.finRange n).find? p = none :=
  List.find?_eq_none.mpr fun i _ => h i

/-- In an ascending list, a member's place is the number of the members below it. -/
theorem getElem?_eq_some_iff_countP_lt {n i : Nat} {l : List (Fin n)} {p : Fin n} (hl : l.Pairwise (· < ·)) (hp : p ∈ l) :
    l[i]? = some p ↔ l.countP (fun q => decide (q < p)) = i := by
  obtain ⟨below, above, rfl⟩ := List.append_of_mem hp
  have hplace : (below ++ p :: above)[below.length]? = some p := by simp
  have hcount : (below ++ p :: above).countP (fun q => decide (q < p)) = below.length := by
    obtain ⟨-, habove, hbelow⟩ := List.pairwise_append.mp hl
    have hb : below.countP (fun q => decide (q < p)) = below.length :=
      List.countP_eq_length.mpr fun q hq => decide_eq_true (hbelow q hq p List.mem_cons_self)
    have ha : above.countP (fun q => decide (q < p)) = 0 :=
      List.countP_eq_zero.mpr fun q hq => by simpa using (List.rel_of_pairwise_cons habove hq).le
    rw [List.countP_append, List.countP_cons, hb, ha]
    simp
  rw [hcount]
  constructor
  · intro hi
    have hlen : below.length < (below ++ p :: above).length := by simp
    exact (List.getElem?_inj hlen (hl.imp fun h => h.ne)).mp (hplace.trans hi.symm)
  · rintro rfl
    exact hplace

/-! ## The conditions as propositions -/

namespace Configuration

section
variable (c : Configuration) (p : PointId)

/-- The number of enabled points that a line feeds. -/
theorem fedBy_length (n : LineId) : (c.fedBy n).length =
    allPoints.countP fun p => c.points[p].enabled && decide (c.points[p].source = .line n) :=
  List.countP_eq_length_filter.symm

theorem badSuppressor_iff : c.badSuppressor p = true ↔ ∃ q, c.points[p].suppressor = some q ∧
    (q = p ∨ c.points[q].suppressor ≠ none ∨ c.points[p].enabled = true ∧ c.points[q].enabled = false) := by
  unfold badSuppressor
  cases c.points[p].suppressor with
  | none => simp
  | some q => simp [Option.isSome_iff_ne_none, or_assoc]

/-- The seventeenth member of a group has sixteen members below it. -/
theorem seventeenth_iff {g : GroupId} (hg : c.points[p].group = some g) : (c.membersOf g)[16]? = some p ↔
    allPoints.countP (fun q => decide (c.points[q].group = some g) && decide (q < p)) = 16 := by
  have hascending : (c.membersOf g).Pairwise (· < ·) := (List.pairwise_lt_finRange 96).filter _
  have hmem : p ∈ c.membersOf g := List.mem_filter.mpr ⟨List.mem_finRange p, decide_eq_true hg⟩
  rw [getElem?_eq_some_iff_countP_lt hascending hmem, membersOf, List.countP_filter]
  simp only [Bool.and_comm]

theorem badMember_iff : c.badMember p = true ↔ ∃ g, c.points[p].group = some g ∧ (c.points[p].sequence = .notice ∨
    allPoints.countP (fun q => decide (c.points[q].group = some g) && decide (q < p)) = 16) := by
  unfold badMember
  cases hg : c.points[p].group with
  | none => simp
  | some g => simp [c.seventeenth_iff p hg]

end

/-! ## The check, by the first condition that fails -/

section
variable {c : Configuration} {holder : LinkId}

theorem check_failed1 {n : LineId} (h1 : c.c1 = some n) : c.check holder = .failed 1 n.val := by
  unfold check
  rw [h1]

theorem check_failed2 {p : PointId} (h1 : c.c1 = none) (h2 : c.c2 = some p) : c.check holder = .failed 2 p.val := by
  unfold check
  rw [h1, h2]

theorem check_failed3 {p : PointId} (h1 : c.c1 = none) (h2 : c.c2 = none) (h3 : c.c3 = some p) :
    c.check holder = .failed 3 p.val := by
  unfold check
  rw [h1, h2, h3]

theorem check_failed4 {p : PointId} (h1 : c.c1 = none) (h2 : c.c2 = none) (h3 : c.c3 = none) (h4 : c.c4 = some p) :
    c.check holder = .failed 4 p.val := by
  unfold check
  rw [h1, h2, h3, h4]

theorem check_c5 (h1 : c.c1 = none) (h2 : c.c2 = none) (h3 : c.c3 = none) (h4 : c.c4 = none) :
    c.check holder = if (c.link holder).authority = .configure then .passed else .failed 5 255 := by
  unfold check
  rw [h1, h2, h3, h4]
  simp only [c5, decide_eq_true_eq]

end

end Configuration

/-- Settles O47: each condition's first breaking item is the one its `find?` returns, and the check stops there. -/
theorem commitCheckTestsFiveConditions : Obligations.CommitCheckTestsFiveConditions := by
  unfold Obligations.CommitCheckTestsFiveConditions
  intro c holder
  simp only [← c.fedBy_length, ← c.badSuppressor_iff, ← c.badMember_iff]
  refine ⟨fun n hn hlt => Configuration.check_failed1 (find?_finRange_some (decide_eq_true hn) fun m hm => ?_),
    fun hfed => ?_⟩
  · exact fun h => (hlt m hm).not_gt (of_decide_eq_true h)
  have h1 : c.c1 = none := find?_finRange_none fun n h => (hfed n).not_gt (of_decide_eq_true h)
  refine ⟨fun p hp hlt => Configuration.check_failed2 h1 (find?_finRange_some hp hlt), fun hgood => ?_⟩
  have h2 : c.c2 = none := find?_finRange_none hgood
  refine ⟨fun p hp hlt => Configuration.check_failed3 h1 h2 (find?_finRange_some hp hlt), fun hgood => ?_⟩
  have h3 : c.c3 = none := find?_finRange_none hgood
  have h4 (p : PointId) : (decide (c.points[p].sequence = .notice) && decide (c.points[p].reminderMinutes ≠ 0)) = true ↔
      c.points[p].sequence = .notice ∧ c.points[p].reminderMinutes ≠ 0 := by simp
  simp only [← h4]
  exact ⟨fun p hp hlt => Configuration.check_failed4 h1 h2 h3 (find?_finRange_some hp hlt),
    fun hgood => Configuration.check_c5 h1 h2 h3 (find?_finRange_none hgood)⟩

end Sys2Proof.Machine
end


section
/-! SUPPORT. How a frame is executed and answered: the checks common to all requests, the last-reply cache, and the requests
that ask about the link itself (R171 to R175, R183, R184). -/

namespace Sys2Proof.Machine

/-! ## Ping (R183) -/

/-- Settles O10: its block leaves the part as the frame's beginning left it. -/
theorem pingAnswersOk : Obligations.PingAnswersOk := by
  unfold Obligations.PingAnswersOk
  intro s l f h
  exact State.run_answered h pingBody rfl

/-! ## The checks common to all requests (R172, R173, R189) -/

/-- The row that executes a frame of a kind takes the frame's body: of Restart's two rows it is the one whose body it is
(log 4). -/
theorem exec_requestCommand_own (l : LinkId) (bs : List Byte) (k : RequestKind) (s : State) :
    ∃ mine body, mine bs = true ∧ exec (requestCommand l bs k) s = s.becomes (s.execute l k mine body) := by
  cases k with
  | restart =>
    have hrow : requestCommand l bs .restart = if coldBodies bs then .restartCold l else .restartWarm l := rfl
    rw [hrow]
    split
    · next hc => exact ⟨coldBodies, restartColdBody, hc, rfl⟩
    · next hc =>
      refine ⟨warmBodies, restartWarmBody, ?_, rfl⟩
      have hb : bs = [0] := not_not.mp fun hne => hc (decide_eq_true hne)
      rw [hb]
      rfl
  | _ => exact ⟨fun _ => true, _, rfl, rfl⟩

section
variable {s : Part} {l : LinkId} {f : Frame}

/-- A frame of no request kind that is not answered from the cache is refused (R172 step 1). -/
theorem Part.executeUnknown_refuses (hn : (s.link l).nextFrame = some f) (hk : RequestKind.ofCode f.kind = none)
    (hc : (s.link l).cachedReply f = none) : s.executeUnknown l = s.answered l f (refuse .unknownKind) := by
  unfold Part.executeUnknown
  rw [hn]
  simp only [hk, if_true]
  rw [show ((s.begin l f).link l).cachedReply f = none by rw [Part.begin_link]; exact hc]
  rfl

/-- A frame of no request kind whose reply is cached is answered from the cache (R175). -/
theorem Part.executeUnknown_cached {r : Reply} (hn : (s.link l).nextFrame = some f)
    (hk : RequestKind.ofCode f.kind = none) (hc : (s.link l).cachedReply f = some r) :
    s.executeUnknown l = (s.begin l f).repeatReply l r := by
  unfold Part.executeUnknown
  rw [hn]
  simp only [hk, if_true]
  rw [show ((s.begin l f).link l).cachedReply f = some r by rw [Part.begin_link]; exact hc]

end

/-- Settles O7: the three checks in their order, each on a frame that passes those before it. -/
theorem commonChecksRefuseInOrder : Obligations.CommonChecksRefuseInOrder := by
  unfold Obligations.CommonChecksRefuseInOrder
  intro s l f hn hc
  refine ⟨fun hk => congrArg s.becomes (Part.executeUnknown_refuses hn hk hc), fun k hk hlen => ?_,
    fun k hk hlen hauth => ?_⟩
  · obtain ⟨mine, body, hmine, hrow⟩ := exec_requestCommand_own l f.body k s
    rw [hrow, Part.execute_length body hn hk hmine hc hlen]
  · obtain ⟨mine, body, hmine, hrow⟩ := exec_requestCommand_own l f.body k s
    rw [hrow, Part.execute_denied body hn hk hmine hc hlen (decide_eq_false (Nat.not_le.mpr hauth))]

/-! ## Answers and retries (R171, R175) -/

/-- A cached reply as a retry sends it: with REPEAT, and bringing no reset. -/
def CacheEntry.again (c : CacheEntry) : Reply :=
  { c.reply with answer := { c.reply.answer with flags := { c.reply.answer.flags with repeated := true }, resets := false } }

theorem Link.cachedReply_hit {k : Link} {f : Frame} {c : CacheEntry} (hc : k.cache = some c) (h0 : f.tag ≠ 0)
    (ht : c.tag = f.tag) (hk : c.kind = f.kind) (hx : c.crc = f.crc) : k.cachedReply f = some c.again := by
  unfold Link.cachedReply
  rw [hc]
  exact if_pos ⟨h0, ht, hk, hx⟩

/-- A frame whose reply is cached is answered from the cache, of whatever kind it is (R175). -/
theorem exec_frameCommand_cached {s : State} {l : LinkId} {f : Frame} {r : Reply} (hn : (s.link l).nextFrame = some f)
    (hc : (s.link l).cachedReply f = some r) :
    exec (frameCommand l f) s = s.becomes ((s.begin l f).repeatReply l r) := by
  unfold frameCommand
  split
  · next k hk =>
    obtain ⟨mine, body, hmine, hrow⟩ := exec_requestCommand_own l f.body k s
    rw [hrow, Part.execute_cached body hn hk hmine hc]
  · next hk => exact congrArg s.becomes (Part.executeUnknown_cached hn hk hc)

/-- What a retry leaves: the cached reply placed again, its frame off the queue, and what the transmitters then take. -/
theorem Part.repeatReply_quiet (s : Part) (l : LinkId) (f : Frame) (r : Reply) :
    ((s.begin l f).repeatReply l r).quiet = (s.setLink l { s.link l with
      waiting := (s.link l).waiting.tail, executing := none, replies := (s.link l).replies ++ [r] }).quiet := by
  unfold Part.repeatReply
  rw [Part.serve_quiet, Part.begin_link, Part.begin, Part.setLink_setLink]
  rfl

/-- Settles O8: the answer as the link's `finish` places it, and the retry as its `place` does. -/
theorem answersAndRetriesTakeTheReservedPlace : Obligations.AnswersAndRetriesTakeTheReservedPlace := by
  unfold Obligations.AnswersAndRetriesTakeTheReservedPlace
  refine ⟨Part.conclude_quiet, fun s l f c hn hc h0 ht hk hx => ?_⟩
  exact ⟨_, c.again, exec_frameCommand_cached hn (Link.cachedReply_hit hc h0 ht hk hx), rfl, rfl, rfl, rfl, rfl,
    Part.repeatReply_quiet ..⟩

/-! ## Read Link Status (R184) -/

theorem Link.statusData_eq (now : Nat) (k : Link) : k.statusData now =
    be 1 (match k.state with | .down => 0 | .live => 1 | .silent => 2) ++ be 2 k.epoch ++
      be 1 (match k.authority with | .observe => 0 | .operate => 1 | .configure => 2) ++ be 1 k.heartbeat ++
      be 1 (match k.supervision with | none => 0 | some d => (timeLeft now d + 999) / 1000) ++
      be 1 k.waiting.length ++ be 1 k.replies.length ++
      be 2 k.framingErrors ++ be 2 k.crcErrors ++ be 2 k.busyRefusals := by
  unfold Link.statusData
  rw [secondsUp_remaining]
  cases k.state <;> cases k.authority <;> rfl

section
variable {l n : LinkId} {b : List Byte} {s : Part}

theorem readLinkStatusBody_reads (hn : field b 0 1 = linkCode n) (hc : field b 1 1 = 0) :
    readLinkStatusBody l b s = (s, okAnswer ((s.link n).statusData s.alarm.journal.elapsed)) := by
  unfold readLinkStatusBody
  rw [hn, hc, link?_code]
  rfl

theorem readLinkStatusBody_clears (hn : field b 0 1 = linkCode n) (hc : field b 1 1 = 1) :
    readLinkStatusBody l b s =
      (s.setLink n (s.link n).clearCounters, okAnswer ((s.link n).statusData s.alarm.journal.elapsed)) := by
  unfold readLinkStatusBody
  rw [hn, hc, link?_code]
  rfl

theorem readLinkStatusBody_noLink (hn : 2 ≤ field b 0 1) :
    readLinkStatusBody l b s = (s, refuseRange 1 (field b 0 1)) := by
  unfold readLinkStatusBody
  rw [link?_above hn]

theorem readLinkStatusBody_noFlag (hn : field b 0 1 = linkCode n) (hc : 2 ≤ field b 1 1) :
    readLinkStatusBody l b s = (s, refuseRange 2 (field b 1 1)) := by
  unfold readLinkStatusBody
  rw [hn, link?_code]
  exact if_pos (within_eq_false.mpr (.inr hc))

end

/-- Settles O13: the 14 characters, then the block in its four answers, in the part that has begun the frame. -/
theorem readLinkStatusReadsAndClears : Obligations.ReadLinkStatusReadsAndClears := by
  unfold Obligations.ReadLinkStatusReadsAndClears
  refine ⟨Link.statusData_eq, fun s l n f h => ?_⟩
  rw [← Part.begin_alarm s.toPart l f]
  exact ⟨fun hn hc => State.run_answered h readLinkStatusBody (readLinkStatusBody_reads hn hc),
    fun hn hc => State.run_ready h readLinkStatusBody (readLinkStatusBody_clears hn hc),
    fun hn => State.run_answered h readLinkStatusBody (readLinkStatusBody_noLink hn),
    fun hn hc => State.run_answered h readLinkStatusBody (readLinkStatusBody_noFlag hn hc)⟩

end Sys2Proof.Machine
end


section
/-! SUPPORT. The transmitters: what one chooses, and what the end of its frame frees (R137, R138, R162, R171, R176). -/

namespace Sys2Proof.Machine

/-! ## The record a report carries (R132, R138) -/

section
variable {j : Journal} {l : LinkId} {r : Record}

theorem consecutive_suffix {n : Nat} {r : Record} {after : List Record} :
    ∀ {before : List Record}, consecutive n (before ++ r :: after) → consecutive n (r :: after)
  | [], h => h
  | _ :: _, h => consecutive_suffix (consecutive_tail h)

/-- A record of the ring lies as many steps behind the next number as there are records from it to the newest. -/
theorem Journal.RingLaw.record_steps (h : j.RingLaw) {before after : List Record} (hr : j.ring = before ++ r :: after) :
    seqSteps r.seq j.nextSeq = after.length + 1 := by
  have hsmall := h.small
  have horder := h.inOrder
  rw [hr] at hsmall horder
  refine consecutive_head h.next (fun x hx => h.numbers x ?_) (consecutive_suffix horder) ?_
  · rw [hr]
    exact List.mem_append_right _ hx
  · rw [List.length_append, List.length_cons] at hsmall
    omega

/-- A record of the ring is the one that lies at its own number. -/
theorem Journal.RingLaw.recordAt_place (h : j.RingLaw) (hr : r ∈ j.ring) : j.recordAt (j.place r.seq) = some r := by
  obtain ⟨before, after, hsplit⟩ := List.append_of_mem hr
  have hsteps := h.record_steps hsplit
  have hlen : j.ring.length = before.length + (after.length + 1) := by rw [hsplit, List.length_append, List.length_cons]
  have hrun : j.run (seqSteps r.seq j.nextSeq) 1 = [r] := by
    unfold Journal.run
    rw [hsteps, hlen, Nat.add_sub_cancel, hsplit, List.drop_left]
    rfl
  rw [Journal.place_held (by omega) (by omega), Journal.recordAt, hrun]
  rfl

theorem Journal.report_gap {g : Gap} (hg : (j.stream l).gap = some g) : j.report l =
    some (j.gapRecord g.first g.count, { j.stream l with gap := none, credits := (j.stream l).credits - 1 }) := by
  unfold Journal.report
  simp only [hg]

theorem Journal.report_record (h : j.RingLaw) (hg : (j.stream l).gap = none) (hr : r ∈ j.ring)
    (hc : r.seq = (j.stream l).cursor) : j.report l =
      some (r, { j.stream l with cursor := seqAfter r.seq, credits := (j.stream l).credits - 1 }) := by
  unfold Journal.report
  simp only [hg, ← hc, h.recordAt_place hr, Option.map_some]

end

/-! ## A transmitter's choice (R176) -/

section
variable {s : Part} {l : LinkId}

theorem Part.transmit_busy (h : (s.link l).sending ≠ none) : s.transmit l = s := by
  obtain ⟨x, hx⟩ := Option.ne_none_iff_exists'.mp h
  unfold Part.transmit
  simp only [hx]

theorem Part.transmit_reply {r : Reply} {rs : List Reply} (h : (s.link l).sending = none)
    (hr : (s.link l).replies = r :: rs) :
    s.transmit l = s.setLink l { s.link l with sending := some ⟨r.chars, true, r.answer.resets⟩ } := by
  unfold Part.transmit
  simp only [h, hr]

theorem Part.transmit_idle (h : (s.link l).sending = none) (hr : (s.link l).replies = [])
    (ho : s.alarm.journal.offers l = false) : s.transmit l = s := by
  unfold Part.transmit
  simp only [h, hr, ho, Bool.false_eq_true, if_false]

theorem Part.transmit_report {r : Record} {t : Stream} (h : (s.link l).sending = none) (hr : (s.link l).replies = [])
    (ho : s.alarm.journal.offers l = true) (hj : s.alarm.journal.report l = some (r, t)) :
    s.transmit l = (s.setStream l t).setLink l { s.link l with sending := some ⟨reportChars r t.credits, false, false⟩ } := by
  unfold Part.transmit
  simp only [h, hr, ho, hj, if_true]
  rfl

/-! ## The end of a frame (R162, R171, R176) -/

theorem Part.transmitted_resets {x : Sending} (p : Straps) (h : (s.link l).sending = some x) (hx : x.resets = true) :
    s.transmitted l p = s.fullReset p := by
  unfold Part.transmitted
  simp only [h, hx, if_true]

theorem Part.transmitted_frees {x : Sending} (p : Straps) (h : (s.link l).sending = some x) (hx : x.resets = false) :
    s.transmitted l p = (s.setLink l { s.link l with
      sending := none, replies := if x.isReply then (s.link l).replies.tail else (s.link l).replies }).serve := by
  unfold Part.transmitted
  simp only [h, hx, Bool.false_eq_true, if_false]

end

/-- Settles O9: the choice by what the transmitter finds, and the end of a frame by what kind of frame it was. -/
theorem transmittersChooseAndFree : Obligations.TransmittersChooseAndFree := by
  unfold Obligations.TransmittersChooseAndFree
  refine ⟨fun s l => ⟨Part.transmit_busy, fun r rs => Part.transmit_reply, Part.transmit_idle, fun g h hr ho hg => ?_,
    fun r hj h hr ho hg hmem hc => ?_⟩, fun s l p x h => ⟨fun hx hreply => ?_, fun hx hreport => ?_, fun hx => ?_⟩⟩
  · exact Part.transmit_report h hr ho (Journal.report_gap hg)
  · exact Part.transmit_report h hr ho (Journal.report_record hj.ring hg hmem hc)
  · refine congrArg s.becomes ((Part.transmitted_frees p h hx).trans ?_)
    rw [hreply]
    rfl
  · refine congrArg s.becomes ((Part.transmitted_frees p h hx).trans ?_)
    rw [hreport]
    rfl
  · exact congrArg s.becomes (Part.transmitted_resets p h hx)

end Sys2Proof.Machine
end


section
/-! SUPPORT. Receiving: the framer, its gap, and the frame that the second CRC character completes (R165 to R170, R177). -/

namespace Sys2Proof.Machine

section
variable {s : Part} {l : LinkId}

/-! ## A character in time (R165, R166, R167) -/

/-- A character that comes before the gap timer has gone past its deadline is taken by the framer as it stands. -/
theorem Part.receive_inTime (c : RxChar)
    (h : ∀ d, (s.link l).gapTimer = some d → pastDeadline s.alarm.journal.elapsed d = false) :
    s.receive l c = s.takeCharacter l c := by
  unfold Part.receive
  cases hg : (s.link l).gapTimer with
  | none => simp only [hg, Bool.false_eq_true, if_false]
  | some d => simp only [hg, h d hg, Bool.false_eq_true, if_false]

theorem exec_receiveCharacter {s : State} (c : RxChar)
    (h : ∀ d, (s.link l).gapTimer = some d → pastDeadline s.alarm.journal.elapsed d = false) {t : Part}
    (ht : s.takeCharacter l c = t) : exec (.receiveCharacter l c) s = s.becomes t.serve := by
  rw [← ht, ← Part.receive_inTime c h]
  rfl

theorem Part.takeCharacter_sync (h : (s.link l).framer = .hunt) :
    s.takeCharacter l (.good 0xA5) = s.setLink l ((s.link l).await s.alarm.journal.elapsed .length) := by
  unfold Part.takeCharacter
  simp only [h, if_true]

theorem Part.takeCharacter_noSync {c : Byte} (h : (s.link l).framer = .hunt) (hc : c ≠ 0xA5) :
    s.takeCharacter l (.good c) = s := by
  unfold Part.takeCharacter
  simp only [h, if_neg hc]

theorem Part.takeCharacter_hunt_broken (h : (s.link l).framer = .hunt) : s.takeCharacter l .broken = s := by
  unfold Part.takeCharacter
  simp only [h]

theorem Part.takeCharacter_len {c : Byte} (h : (s.link l).framer = .length) (h1 : 2 ≤ c.toNat) (h2 : c.toNat ≤ 242) :
    s.takeCharacter l (.good c) = s.setLink l ((s.link l).await s.alarm.journal.elapsed (.collect c.toNat [])) := by
  unfold Part.takeCharacter
  simp only [h, if_pos (And.intro h1 h2)]

theorem Part.takeCharacter_badLen {c : Byte} (h : (s.link l).framer = .length) (hc : c.toNat < 2 ∨ 242 < c.toNat) :
    s.takeCharacter l (.good c) = s.setLink l (s.link l).abandonFrame := by
  unfold Part.takeCharacter
  simp only [h]
  exact if_neg (by omega)

theorem Part.takeCharacter_collects {c : Byte} {n : Nat} {taken : List Byte} (h : (s.link l).framer = .collect n taken)
    (hn : taken.length + 1 < n) : s.takeCharacter l (.good c) =
      s.setLink l ((s.link l).await s.alarm.journal.elapsed (.collect n (taken ++ [c]))) := by
  unfold Part.takeCharacter
  simp only [h, if_pos hn]

theorem Part.takeCharacter_collected {c : Byte} {n : Nat} {taken : List Byte} (h : (s.link l).framer = .collect n taken)
    (hn : n ≤ taken.length + 1) : s.takeCharacter l (.good c) =
      s.setLink l ((s.link l).await s.alarm.journal.elapsed (.check (taken ++ [c]) none)) := by
  unfold Part.takeCharacter
  simp only [h, if_neg (Nat.not_lt.mpr hn)]

theorem Part.takeCharacter_crcHigh {c : Byte} {taken : List Byte} (h : (s.link l).framer = .check taken none) :
    s.takeCharacter l (.good c) =
      s.setLink l ((s.link l).await s.alarm.journal.elapsed (.check taken (some c))) := by
  unfold Part.takeCharacter
  simp only [h]

theorem Part.takeCharacter_crcLow {high low : Byte} {taken : List Byte}
    (h : (s.link l).framer = .check taken (some high)) :
    s.takeCharacter l (.good low) = s.completeFrame l taken (high ++ low) := by
  unfold Part.takeCharacter
  simp only [h]

/-- A broken character abandons whatever frame is in progress. -/
theorem Part.takeCharacter_broken (h : (s.link l).framer ≠ .hunt) :
    s.takeCharacter l .broken = s.setLink l (s.link l).abandonFrame := by
  unfold Part.takeCharacter
  cases hf : (s.link l).framer with
  | hunt => exact absurd hf h
  | length => simp only [hf]
  | collect n taken => simp only [hf]
  | check taken high => simp only [hf]

/-! ## The gap (R167, log 16) -/

theorem State.characterWaits_iff (l : LinkId) (s : State) :
    s.characterWaits l = true ↔ ∃ c, Instr.receiveCharacter l c ∈ s.pending := by
  unfold State.characterWaits
  rw [List.any_eq_true]
  constructor
  · rintro ⟨i, hi, hc⟩
    unfold characterOf at hc
    split at hc
    · next m c =>
      obtain rfl := of_decide_eq_true hc
      exact ⟨c, hi⟩
    · cases hc
  · rintro ⟨c, hc⟩
    exact ⟨_, hc, decide_eq_true rfl⟩

theorem Part.gapExpired_due {d : Nat} (h : (s.link l).gapTimer = some d) (hd : timeLeft s.alarm.journal.elapsed d = 0) :
    s.gapExpired l = s.setLink l (s.link l).abandonFrame := by
  unfold Part.gapExpired
  rw [h, if_pos (Timer.due_some hd)]

end

/-- Settles O52: the framer row by row, then the gap's expiry with no character of its link waiting and with one. -/
theorem framerTakesCharactersAndGaps : Obligations.FramerTakesCharactersAndGaps := by
  unfold Obligations.FramerTakesCharactersAndGaps
  refine ⟨fun s l h => ?_, fun s l d hg hd => ⟨fun hq => ?_, fun c hq => ?_⟩⟩
  · intro k kept dropped
    exact ⟨fun hf => exec_receiveCharacter _ h (Part.takeCharacter_sync hf),
      fun c hf hc => exec_receiveCharacter _ h (Part.takeCharacter_noSync hf hc),
      fun hf => exec_receiveCharacter _ h (Part.takeCharacter_hunt_broken hf),
      fun c hf h1 h2 => exec_receiveCharacter _ h (Part.takeCharacter_len hf h1 h2),
      fun c hf hc => exec_receiveCharacter _ h (Part.takeCharacter_badLen hf hc),
      fun c n taken hf hn => exec_receiveCharacter _ h (Part.takeCharacter_collects hf hn),
      fun c n taken hf hn => exec_receiveCharacter _ h (Part.takeCharacter_collected hf hn),
      fun c taken hf => exec_receiveCharacter _ h (Part.takeCharacter_crcHigh hf),
      fun hf => exec_receiveCharacter _ h (Part.takeCharacter_broken hf)⟩
  · refine (if_neg fun hw => ?_).trans (congrArg s.becomes (Part.gapExpired_due hg hd))
    obtain ⟨c, hc⟩ := (State.characterWaits_iff l s).mp hw
    exact hq c hc
  · exact if_pos ((State.characterWaits_iff l s).mpr ⟨c, hq⟩)

/-! ## Complete frames (R168, R170, R177) -/

section
variable {s : Part} {l : LinkId}

/-- The part once a frame is complete: its link hunts for the next, with the gap timer stopped. -/
def Part.hunting (l : LinkId) (s : Part) : Part := s.setLink l { s.link l with framer := .hunt, gapTimer := none }

theorem Part.completeFrame_wrong {taken : List Byte} {crc : BitVec 16} (h : expectedCrc taken ≠ crc) :
    s.completeFrame l taken crc = (s.hunting l).setLink l
      { (s.hunting l).link l with crcErrors := cap16 ((s.link l).crcErrors + 1) } := by
  unfold Part.completeFrame
  simp only [if_neg h]
  unfold Part.hunting
  rw [Part.setLink_link]

theorem Part.completeFrame_right {taken : List Byte} {crc : BitVec 16} (h : expectedCrc taken = crc) :
    s.completeFrame l taken crc = ((s.hunting l).heard l).setLink l
      ((((s.hunting l).heard l).link l).enqueue (frameOf taken crc)) := by
  unfold Part.completeFrame
  simp only [if_pos h]
  rfl

/-- Hearing a frame leaves its link as it was but for the link state and the supervision timer (R177). -/
theorem Part.heard_link (l : LinkId) (s : Part) : ∃ state supervision,
    (s.heard l).link l = { s.link l with state := state, supervision := supervision } := by
  unfold Part.heard
  simp only
  split
  · exact ⟨_, _, Part.setLink_link ..⟩
  · rw [Part.append_link, Part.setLink_link]
    exact ⟨_, _, rfl⟩
  · rw [Part.settleRelays_link, Part.resolveAll_eq _ _ _ (Part.pointsOn_nodup ..)]
    refine ⟨.live, (s.link l).superviseFrom s.alarm.journal.elapsed, ?_⟩
    cases l <;> rfl

theorem Link.enqueue_joins {k : Link} (f : Frame) (h : k.waiting.length < 4) :
    k.enqueue f = { k with waiting := k.waiting ++ [f] } := if_pos h

theorem Link.enqueue_busy {k : Link} (f : Frame) (h : 4 ≤ k.waiting.length) (hp : k.placesTaken < 8) : k.enqueue f =
    { k with
      busyRefusals := cap16 (k.busyRefusals + 1)
      replies := k.replies ++ [⟨f.tag, f.kind, refuse .busy⟩] } :=
  (if_neg (Nat.not_lt.mpr h)).trans (if_pos hp)

theorem Link.enqueue_full {k : Link} (f : Frame) (h : 4 ≤ k.waiting.length) (hp : 8 ≤ k.placesTaken) :
    k.enqueue f = { k with busyRefusals := cap16 (k.busyRefusals + 1) } :=
  (if_neg (Nat.not_lt.mpr h)).trans (if_neg (Nat.not_lt.mpr hp))

end

/-- Settles O53: a wrong CRC, then a right one by the places that are free; hearing the frame leaves the link's queues. -/
theorem completeFramesAreCheckedAndQueued : Obligations.CompleteFramesAreCheckedAndQueued := by
  unfold Obligations.CompleteFramesAreCheckedAndQueued
  intro s l tag kind body high low h hf right hunting k
  have hrow {t : Part} (ht : s.completeFrame l (tag :: kind :: body) (high ++ low) = t) :
      exec (.receiveCharacter l (.good low)) s = s.becomes t.serve :=
    exec_receiveCharacter _ h ((Part.takeCharacter_crcLow hf).trans ht)
  obtain ⟨state, supervision, hk⟩ := Part.heard_link l hunting
  rw [show hunting.link l = { s.link l with framer := .hunt, gapTimer := none } from Part.setLink_link ..] at hk
  have hwaiting : k.waiting = (s.link l).waiting := (congrArg Link.waiting hk :)
  have hreplies : k.replies = (s.link l).replies := (congrArg Link.replies hk :)
  have hplaces : k.placesTaken = (s.link l).placesTaken := (congrArg Link.placesTaken hk :)
  have hrefusals : k.busyRefusals = (s.link l).busyRefusals := (congrArg Link.busyRefusals hk :)
  have hcrc : right = (expectedCrc (tag :: kind :: body) = high ++ low) := rfl
  have hright (hr : expectedCrc (tag :: kind :: body) = high ++ low) {v : Link}
      (hv : k.enqueue ⟨tag, kind, body, high ++ low⟩ = v) :
      exec (.receiveCharacter l (.good low)) s = s.becomes ((hunting.heard l).setLink l v).serve :=
    hrow ((Part.completeFrame_right hr).trans (congrArg ((hunting.heard l).setLink l) hv))
  rw [← hwaiting, ← hreplies, ← hplaces, ← hrefusals, hcrc]
  exact ⟨fun hw => hrow (Part.completeFrame_wrong hw), fun hr hq => hright hr (Link.enqueue_joins _ hq),
    fun hr hq hp => hright hr (Link.enqueue_busy _ hq hp), fun hr hq hp => hright hr (Link.enqueue_full _ hq hp)⟩

end Sys2Proof.Machine
end


section
/-! SUPPORT. What a link's state does to the part: an accepted frame, and silence (R153, R157, R177, R178); and the records
that condition changes append when they are delivered (R4, R5, R37, R74). -/

namespace Sys2Proof.Machine

/-! ## The records of a delivery (R4, R5, R74) -/

/-- A record that a condition change can append: the points' own, and SHELF_FULL. -/
def RecordBody.ofDelivery (r : RecordBody) : Prop := r.kind = .point ∨ r.kind = .shelfFull

/-- From `a` to `b` the Journal took only such records. -/
abbrev Alarm.Recorded (a b : Alarm) : Prop := Journal.Grown RecordBody.ofDelivery a.journal b.journal

section
variable (e : Env) (p : PointId) (a : Alarm)

theorem Alarm.transition_recorded (d : Point) (cause : Cause) : Alarm.Recorded a (a.transition e p d cause) :=
  .one _ (.inl rfl)

theorem Alarm.stay_recorded (cause : Cause) : Alarm.Recorded a (a.stay e p cause) := .one _ (.inl rfl)

theorem Alarm.enter_recorded (cause : Cause) : Alarm.Recorded a (a.enter e p cause) := by
  unfold Alarm.Recorded
  rw [Alarm.enter_journal]
  exact .one _ (.inl rfl)

theorem Alarm.left_recorded : Alarm.Recorded a (a.left e p) := by
  unfold Alarm.Recorded Alarm.left
  rw [Alarm.rearmGroupOf_journal]
  exact foldl_keeps (P := Alarm.Recorded a) (fun b q hb => hb.trans (b.enter_recorded e q .release)) _ (.refl _)

theorem Alarm.move_recorded (to_ : PointState) (cause : Cause) : Alarm.Recorded a (a.move e p to_ cause) := by
  have ht := a.transition_recorded e p (a.moved e p to_) cause
  unfold Alarm.move
  split
  · exact ht.trans (Alarm.left_recorded ..)
  · exact ht

theorem Alarm.newOccurrence_recorded (cause : Cause) : Alarm.Recorded a (a.newOccurrence e p cause) := by
  unfold Alarm.newOccurrence
  simp only
  split
  · exact Alarm.move_recorded e p (a.setPoint p _) ..
  · exact Alarm.enter_recorded e p (a.setPoint p _) ..

theorem Alarm.limitReached_recorded : Alarm.Recorded a (a.limitReached e p) := by
  unfold Alarm.limitReached
  split
  · exact Alarm.move_recorded _ _ ((a.placeEntry _).setChatter _ {}) ..
  · exact .one (a.setChatter p {}).journal (.inr rfl)

theorem Alarm.countQA_recorded : Alarm.Recorded a (a.countQA e p) := by
  by_cases h : e.config.points[p].chatterLimit = 0
  · rw [Alarm.countQA_none h]
    exact .refl _
  · rw [Alarm.countQA_eq h]
    split
    · exact a.limitReached_recorded e p
    · exact .refl _

theorem Alarm.qa_recorded : Alarm.Recorded a (a.qa e p) := by
  by_cases h : e.config.points[p].sequence.qaBegins a.points[p].state
  · rw [Alarm.qa_begins h]
    exact a.newOccurrence_recorded e p .qa
  · rw [Alarm.qa_stays h]
    exact a.stay_recorded e p .qa

theorem Alarm.qn_recorded : Alarm.Recorded a (a.qn e p) := by
  unfold Alarm.qn
  split
  · exact a.move_recorded ..
  · exact a.move_recorded ..
  · exact a.move_recorded ..
  · exact a.move_recorded ..
  · exact a.move_recorded ..
  · exact a.stay_recorded ..

theorem Alarm.deliver_recorded (v : Bool) : Alarm.Recorded a (a.deliver e p v) := by
  unfold Alarm.deliver
  split
  · exact .refl _
  · exact Alarm.qa_recorded e p (a.setCondition p true)
  · exact (Alarm.qa_recorded e p (a.setCondition p true)).trans (Alarm.countQA_recorded ..)
  · exact Alarm.qn_recorded e p (a.setCondition p false)

/-- Condition changes delivered one after the other append records of the points, and SHELF_FULL, and no others. -/
theorem Alarm.foldl_deliver_recorded (v : PointId → Bool) (ps : List PointId) :
    Alarm.Recorded a (ps.foldl (fun a p => a.deliver e p (v p)) a) :=
  foldl_keeps (P := Alarm.Recorded a) (fun b q hb => hb.trans (b.deliver_recorded e q (v q))) ps (.refl _)

end

/-! ## The points that read a link's silence (R38) -/

section
variable {l : LinkId} {s : Part} {v : Bool}

/-- The points that read a link's silence worked out again, in ascending order, with the link as origin. -/
def Part.readSilence (l : LinkId) (s : Part) : Part := s.resolveAll (.link l) (s.pointsOn (.silent l))

theorem Part.readSilence_eq (l : LinkId) (s : Part) :
    s.readSilence l = s.brought (.link l) (s.pointsOn (.silent l)) s.conditionOf :=
  Part.resolveAll_eq _ _ _ (s.pointsOn_nodup _)

theorem Part.readSilence_frame (l : LinkId) (s : Part) :
    ∃ c a, s.readSilence l = { s with conditions := c, alarm := a } := ⟨_, _, Part.readSilence_eq l s⟩

theorem Part.readSilence_link (l k : LinkId) (s : Part) : (s.readSilence l).link k = s.link k := by
  obtain ⟨c, a, h⟩ := Part.readSilence_frame l s
  rw [h]
  cases k <;> rfl

theorem Part.conditionOf_silent {p : PointId} (h : s.active.points[p].source = .silent l) :
    s.conditionOf p = decide ((s.link l).state = .silent) := by
  unfold Part.conditionOf
  rw [h]

theorem Part.readSilence_on (hv : decide ((s.link l).state = .silent) = v) (p : PointId)
    (hp : s.active.points[p].source = .silent l) :
    (s.readSilence l).conditions[p] = { s.conditions[p] with abnormal := v } := by
  rw [Part.readSilence_eq, Part.brought_condition, if_pos ((s.mem_pointsOn _ p).mpr hp), Part.conditionOf_silent hp, hv]

theorem Part.readSilence_off (p : PointId) (hp : s.active.points[p].source ≠ .silent l) :
    (s.readSilence l).conditions[p] = s.conditions[p] := by
  rw [Part.readSilence_eq, Part.brought_condition, if_neg fun hm => hp ((s.mem_pointsOn _ p).mp hm)]

/-- The points whose condition changes, each change delivered to the Sequence Engine. -/
theorem Part.readSilence_alarm (hv : decide ((s.link l).state = .silent) = v) : (s.readSilence l).alarm =
    (allPoints.filter fun p => decide (s.active.points[p].source = .silent l ∧ s.conditions[p].abnormal = !v)).foldl
      (fun a p => a.deliver (s.env (.link l)) p v) s.alarm := by
  have hread {p : PointId} (hp : p ∈ s.pointsOn (.silent l)) : s.conditionOf p = v :=
    (Part.conditionOf_silent ((s.mem_pointsOn _ p).mp hp)).trans hv
  have hchanged : ((s.pointsOn (.silent l)).filter fun p => decide (s.conditionOf p ≠ s.conditions[p].abnormal)) =
      allPoints.filter fun p => decide (s.active.points[p].source = .silent l ∧ s.conditions[p].abnormal = !v) := by
    rw [List.filter_congr (q := fun p : PointId => decide (s.conditions[p].abnormal = !v)) fun p hp =>
      decide_eq_decide.mpr (by rw [hread hp]; exact ne_comm.trans Bool.eq_not.symm)]
    unfold Part.pointsOn
    rw [List.filter_filter]
    exact List.filter_congr fun p _ => by rw [Bool.and_comm, ← Bool.decide_and]
  have hdelivered : (s.readSilence l).alarm =
      ((s.pointsOn (.silent l)).filter fun p => decide (s.conditionOf p ≠ s.conditions[p].abnormal)).foldl
        (fun a p => a.deliver (s.env (.link l)) p (s.conditionOf p)) s.alarm := by
    rw [Part.readSilence_eq]
    rfl
  rw [hdelivered, List.foldl_ext _ _ _ fun a p hp => by rw [hread (List.mem_of_mem_filter hp)], hchanged]

theorem Part.readSilence_recorded (l : LinkId) (s : Part) : Alarm.Recorded s.alarm (s.readSilence l).alarm := by
  rw [Part.readSilence_eq]
  exact Alarm.foldl_deliver_recorded ..

end

/-! ## An accepted frame (R177) -/

section
variable {l : LinkId} {s : Part}

/-- The part with a link gone LIVE, its supervision started and LINK_LIVE appended. -/
def Part.goneLive (l : LinkId) (s : Part) : Part :=
  (s.setLink l { s.link l with state := .live, supervision := (s.link l).superviseFrom s.alarm.journal.elapsed }).append
    { kind := .linkLive, origin := .link l }

theorem Part.heard_down (h : (s.link l).state = .down) : s.heard l = s.goneLive l := by
  unfold Part.heard
  simp only [h]
  rfl

theorem Part.heard_live (h : (s.link l).state = .live) : s.heard l = s.setLink l { s.link l with
    supervision := if (s.link l).heartbeat = 0 then (s.link l).supervision
      else (s.link l).superviseFrom s.alarm.journal.elapsed } := by
  unfold Part.heard
  simp only [h]

theorem Part.heard_silent (h : (s.link l).state = .silent) :
    s.heard l = ((s.goneLive l).readSilence l).settleRelays := by
  unfold Part.heard
  simp only [h]
  rfl

theorem Part.goneLive_notSilent (l : LinkId) (s : Part) :
    decide (((s.goneLive l).link l).state = .silent) = false := by
  unfold Part.goneLive
  rw [Part.append_link, Part.setLink_link]
  rfl

/-- Going LIVE changes the link and the Journal only. -/
theorem Part.goneLive_frame (l : LinkId) (s : Part) : (s.goneLive l).active = s.active ∧
    (s.goneLive l).manager = s.manager ∧ (s.goneLive l).conditions = s.conditions ∧
    (s.goneLive l).env (.link l) = s.env (.link l) := by
  cases l <;> exact ⟨rfl, rfl, rfl, rfl⟩

end

/-- Settles O54: by the state the frame finds its link in; from SILENT the points that read the silence are worked out again. -/
theorem acceptedFramesKeepTheLinkLive : Obligations.AcceptedFramesKeepTheLinkLive := by
  unfold Obligations.AcceptedFramesKeepTheLinkLive
  intro s l k started live
  refine ⟨Part.heard_down, fun h => (Part.heard_live h).trans ?_, fun h => ?_⟩
  · by_cases hb : k.heartbeat = 0
    · rw [if_pos hb, if_pos hb]
    · rw [if_neg hb, if_neg hb]
      rfl
  · have hv := s.goneLive_notSilent l
    obtain ⟨hactive, hmanager, hconditions, henv⟩ := s.goneLive_frame l
    have hon := Part.readSilence_on hv
    have hoff := Part.readSilence_off (s := s.goneLive l) (l := l)
    have halarm := Part.readSilence_alarm hv
    have hlink := fun m => Part.readSilence_link l m (s.goneLive l)
    obtain ⟨bs, hbs, -⟩ := Part.readSilence_recorded l (s.goneLive l)
    obtain ⟨c, a, hframe⟩ := Part.readSilence_frame l (s.goneLive l)
    rw [hactive, hconditions] at hon hoff halarm
    rw [henv] at halarm
    rw [Part.heard_silent h]
    refine ⟨fun m => (Part.settleRelays_link ..).trans (hlink m), ?_, ?_, hon, hoff, halarm, bs, hbs⟩
    · rw [hframe]
      exact hmanager
    · rw [hframe]
      exact hactive

end Sys2Proof.Machine
end


section
/-! SUPPORT. The session that a link loses (R142, R153), its running check abandoned (R157), and the link's fall to SILENT
(R178). -/

namespace Sys2Proof.Machine

section
variable {l : LinkId} {s : Part}

/-! ## The session a link loses (R118, R153, R160) -/

/-- The record that the end of a link's session appends, where the link holds one. -/
def Manager.lostBy (l : LinkId) (m : Manager) : List RecordBody :=
  if m.holder = some l then [{ kind := .sessionLost, origin := .link l, detail := some m.sessionId }] else []

/-- The lock once a link's session is lost, where the link holds one. -/
def Manager.endedBy (l : LinkId) (m : Manager) : Manager := if m.holder = some l then m.freed else m

/-- The part with a link's session lost, where the link holds one. -/
def Part.loseHeld (l : LinkId) (s : Part) : Part := if s.manager.holder = some l then s.loseSession l else s

theorem Part.loseHeld_eq (l : LinkId) (s : Part) : s.loseHeld l = { s with
    manager := s.manager.endedBy l
    alarm := { s.alarm with journal := s.alarm.journal.appendAll (s.manager.lostBy l) } } := by
  unfold Part.loseHeld Manager.endedBy Manager.lostBy
  by_cases h : s.manager.holder = some l
  · rw [if_pos h, if_pos h, if_pos h, Part.loseSession_ite, if_neg (by rw [h]; nofun)]
    rfl
  · rw [if_neg h, if_neg h, if_neg h]
    rfl

/-! ## The check of a link's session abandoned (R157) -/

/-- A link whose Commit, where one is executed, is answered ABANDONED. -/
def Link.abandoned (k : Link) : Link :=
  match k.executing with
  | some f => k.finish f (refuse .abandoned)
  | none => k

theorem Link.abandoned_some {k : Link} {f : Frame} (h : k.executing = some f) :
    k.abandoned = k.finish f (refuse .abandoned) := by
  unfold Link.abandoned
  rw [h]

theorem Link.abandoned_none {k : Link} (h : k.executing = none) : k.abandoned = k := by
  unfold Link.abandoned
  rw [h]

theorem Link.abandoned_state (k : Link) : k.abandoned.state = k.state := by
  unfold Link.abandoned
  split
  · rfl
  · rfl

/-- The lock once a link's check is dropped, where the link holds the session. -/
def Manager.uncheckedBy (l : LinkId) (m : Manager) : Manager :=
  if m.holder = some l then { m with check := none } else m

/-- The part with the check of a link's session abandoned, where the link holds one. -/
def Part.abandonHeld (l : LinkId) (s : Part) : Part := if s.manager.holder = some l then s.abandonCheck else s

theorem Part.abandonCheck_unchecked (h : s.manager.check = none) : s.abandonCheck = s := by
  unfold Part.abandonCheck
  rw [h]

theorem Part.abandonCheck_checking {d : Nat} {f : Frame} (hc : s.manager.check = some d)
    (hh : s.manager.holder = some l) (hf : (s.link l).executing = some f) : s.abandonCheck =
      { s.setLink l ((s.link l).finish f (refuse .abandoned)) with manager := { s.manager with check := none } } := by
  unfold Part.abandonCheck
  simp only [hc, hh, Part.setManager_link, hf]
  cases l <;> rfl

/-- Where a link executes a request only while its own check runs, the end of that check answers it. -/
theorem Part.abandonHeld_eq (h : (s.link l).executing.isSome = (s.manager.check.isSome && s.manager.heldBy l)) :
    s.abandonHeld l = { s.setLink l (s.link l).abandoned with manager := s.manager.uncheckedBy l } := by
  unfold Part.abandonHeld Manager.uncheckedBy
  by_cases hh : s.manager.holder = some l
  · rw [(Manager.heldBy_iff ..).mpr hh, Bool.and_true] at h
    rw [if_pos hh, if_pos hh]
    cases hc : s.manager.check with
    | none =>
      rw [hc] at h
      rw [Part.abandonCheck_unchecked hc, Link.abandoned_none (Option.not_isSome_iff_eq_none.mp (by rw [h]; nofun)),
        Part.setLink_self, ← hc]
    | some d =>
      obtain ⟨f, hf⟩ := Option.isSome_iff_exists.mp (h.trans (by rw [hc]; rfl))
      rw [Part.abandonCheck_checking hc hh hf, Link.abandoned_some hf]
  · rw [Manager.not_heldBy hh, Bool.and_false] at h
    rw [if_neg hh, if_neg hh, Link.abandoned_none (Option.not_isSome_iff_eq_none.mp (by rw [h]; nofun)),
      Part.setLink_self]

/-! ## The fall to SILENT (R178) -/

/-- A link SILENT, its supervision stopped. -/
def Link.muted (k : Link) : Link := { k with state := .silent, supervision := none }

/-- The Journal with LINK_SILENT, and the credits of the link's stream 0 (R141). -/
def Journal.mutedBy (l : LinkId) (j : Journal) : Journal :=
  (j.append { kind := .linkSilent, origin := .link l }).zeroCredits l

/-- The part with a link SILENT, before the session and the points follow. -/
def Part.muted (l : LinkId) (s : Part) : Part :=
  { s.setLink l (s.link l).muted with alarm := { s.alarm with journal := s.alarm.journal.mutedBy l } }

theorem Part.muted_link (l : LinkId) (s : Part) : (s.muted l).link l = (s.link l).muted := by
  cases l <;> rfl

/-- The part as the points that read the silence find it. -/
def Part.silenced (l : LinkId) (s : Part) : Part := ((s.muted l).abandonHeld l).loseHeld l

theorem Part.abandonHeld_holder (l : LinkId) (s : Part) (h : s.manager.holder = some l) :
    (s.abandonHeld l).manager.holder = some l := by
  unfold Part.abandonHeld Part.abandonCheck
  rw [if_pos h]
  split
  · simp only
    split
    · rw [Part.setLink_manager]
      exact h
    · exact h
  · exact h

theorem Part.silenced_ite (l : LinkId) (s : Part) : s.silenced l =
    if (s.muted l).manager.holder = some l then (s.muted l).abandonCheck.loseSession l else s.muted l := by
  unfold Part.silenced Part.loseHeld
  by_cases h : (s.muted l).manager.holder = some l
  · rw [if_pos (Part.abandonHeld_holder l _ h), Part.abandonHeld, if_pos h, if_pos h]
  · rw [Part.abandonHeld, if_neg h, if_neg h, if_neg h]

theorem Part.fallSilent_eq (l : LinkId) (s : Part) :
    s.fallSilent l = ((s.silenced l).readSilence l).settleRelays := by
  rw [Part.silenced_ite]
  cases l <;> rfl

/-- Under the law of the session lock, all that the fall changes before the points follow. -/
theorem Part.silenced_eq (h : s.SessionLaw) (l : LinkId) : s.silenced l = { s.setLink l (s.link l).muted.abandoned with
    manager := (s.manager.uncheckedBy l).endedBy l
    alarm := { s.alarm with journal := (s.alarm.journal.mutedBy l).appendAll ((s.manager.uncheckedBy l).lostBy l) } } := by
  have hx : ((s.muted l).link l).executing.isSome = ((s.muted l).manager.check.isSome && (s.muted l).manager.heldBy l) := by
    rw [Part.muted_link, show (s.muted l).manager = s.manager from Part.setLink_manager ..]
    exact h.executing l
  rw [Part.silenced, Part.abandonHeld_eq hx, Part.loseHeld_eq, Part.muted_link]
  cases l <;> rfl

theorem Part.silenced_link (h : s.SessionLaw) (l : LinkId) : (s.silenced l).link l = (s.link l).muted.abandoned := by
  rw [Part.silenced_eq h]
  cases l <;> rfl

theorem Part.silenced_isSilent (h : s.SessionLaw) (l : LinkId) : decide (((s.silenced l).link l).state = .silent) = true := by
  rw [Part.silenced_link h, Link.abandoned_state]
  rfl

/-- The fall leaves these alone. -/
theorem Part.silenced_frame (h : s.SessionLaw) (l : LinkId) : (s.silenced l).active = s.active ∧
    (s.silenced l).conditions = s.conditions ∧ (s.silenced l).env (.link l) = s.env (.link l) ∧
    (s.silenced l).lines = s.lines ∧ (s.silenced l).panel = s.panel ∧
    (s.silenced l).link (otherLink l) = s.link (otherLink l) := by
  rw [Part.silenced_eq h]
  cases l <;> exact ⟨rfl, rfl, rfl, rfl, rfl, rfl⟩

theorem Manager.uncheckedBy_lostBy (l : LinkId) (m : Manager) : (m.uncheckedBy l).lostBy l = m.lostBy l := by
  unfold Manager.uncheckedBy
  split
  · rfl
  · rfl

theorem Manager.uncheckedBy_endedBy (l : LinkId) (m : Manager) : (m.uncheckedBy l).endedBy l =
    if m.holder = some l then { m with check := none, holder := none, sessionId := 0, staging := none } else m := by
  unfold Manager.uncheckedBy Manager.endedBy
  by_cases h : m.holder = some l
  · rw [if_pos h, if_pos h, if_pos h]
    rfl
  · rw [if_neg h, if_neg h, if_neg h]

theorem Part.silenced_manager (h : s.SessionLaw) (l : LinkId) : (s.silenced l).manager =
    if s.manager.holder = some l then { s.manager with check := none, holder := none, sessionId := 0, staging := none }
    else s.manager := by
  rw [Part.silenced_eq h]
  exact Manager.uncheckedBy_endedBy l s.manager

theorem Part.silenced_alarm (h : s.SessionLaw) (l : LinkId) : (s.silenced l).alarm =
    { s.alarm with journal := (s.alarm.journal.mutedBy l).appendAll (s.manager.lostBy l) } := by
  rw [Part.silenced_eq h, Manager.uncheckedBy_lostBy]

end

/-- Settles O55: the link, its Journal and its session first, as `Part.silenced_eq` says; then the points that read it. -/
theorem silenceHasItsEffectsInOrder : Obligations.SilenceHasItsEffectsInOrder := by
  unfold Obligations.SilenceHasItsEffectsInOrder
  intro s l d h hlive hd hdue noted lost
  have hexec : exec (.supervisionExpiry l) s = s.becomes (s.fallSilent l).serve := by
    have hready : s.silenceDue l = true := (Part.silenceDue_iff ..).mpr ⟨hlive, hd ▸ Timer.due_some hdue⟩
    exact congrArg s.becomes (if_pos hready)
  have hv := Part.silenced_isSilent h l
  obtain ⟨hactive, hconditions, henv, hlines, hpanel, hother⟩ := Part.silenced_frame h l
  have hstart := Part.silenced_alarm h l
  have hon := Part.readSilence_on hv
  have hoff := Part.readSilence_off (s := s.silenced l) (l := l)
  have halarm := Part.readSilence_alarm hv
  have hlink := fun k => Part.readSilence_link l k (s.silenced l)
  obtain ⟨bs, hbs, -⟩ := Part.readSilence_recorded l (s.silenced l)
  obtain ⟨c, a, hframe⟩ := Part.readSilence_frame l (s.silenced l)
  rw [hactive, hconditions] at hon hoff halarm
  rw [henv, hstart] at halarm
  rw [hstart] at hbs
  refine ⟨s.fallSilent l, bs, hexec, ?_⟩
  rw [Part.fallSilent_eq]
  refine ⟨hbs.trans (Journal.appendAll_append ..).symm, halarm, ?_, ?_, ?_, hon, hoff, ?_, ?_, ?_⟩
  · rw [hframe]
    exact Part.silenced_manager h l
  · rw [Part.settleRelays_link, hlink, Part.silenced_link h]
    rfl
  · rw [Part.settleRelays_link, hlink, hother]
  · rw [hframe]
    exact hactive
  · rw [hframe]
    exact hlines
  · rw [hframe, ← hpanel]
    rfl

end Sys2Proof.Machine
end


section
/-! SUPPORT. Hello: identity, and what a new epoch drops (R36, R43, R142, R181, R182). -/

namespace Sys2Proof.Machine

section
variable {l : LinkId} {s : Part} {f : Frame} {epoch : Nat}

/-! ## The answers (R181) -/

theorem helloBody_version (h : field f.body 0 1 ≠ 1) : helloBody l f.body s = (s, refuse .version Config.identity) :=
  if_pos h

theorem helloBody_sameEpoch (hv : field f.body 0 1 = 1) (he : field f.body 1 2 = (s.link l).epoch) :
    helloBody l f.body s = (s, okAnswer (s.helloData l (s.link l).epoch)) := by
  unfold helloBody
  simp only
  rw [if_neg (not_not.mpr hv), if_pos he]

theorem helloBody_newEpoch (hv : field f.body 0 1 = 1) (he : field f.body 1 2 = epoch) (hn : epoch ≠ (s.link l).epoch) :
    helloBody l f.body s = (s.newEpoch l epoch, okAnswer ((s.newEpoch l epoch).helloData l (s.link l).epoch)) := by
  unfold helloBody
  simp only
  rw [he, if_neg (not_not.mpr hv), if_neg hn]

theorem Part.helloData_of_eq {t : Part} (ha : (t.link l).authority = (s.link l).authority)
    (hm : t.manager.mode = s.manager.mode) (n : Nat) : t.helloData l n =
      Config.identity ++ be 1 (linkCode l) ++ be 1 (s.link l).authority.code ++ be 1 s.manager.mode.code ++
        be 4 (seqBefore t.alarm.journal.nextSeq) ++ be 2 n := by
  unfold Part.helloData
  rw [ha, hm]
  rfl

/-! ## A new epoch up to the assertions (R142, R182) -/

/-- A link with a new epoch stored and its cache emptied. -/
def Link.renewed (epoch : Nat) (k : Link) : Link := { k with epoch := epoch, cache := none }

/-- The Journal with EPOCH, and the link's stream ended. -/
def Journal.renewedBy (l : LinkId) (epoch : Nat) (j : Journal) : Journal :=
  (j.append { kind := .epoch, origin := .link l, detail := some epoch }).endStream l

/-- The part with a new epoch stored, before the session and the assertions follow. -/
def Part.reidentified (l : LinkId) (epoch : Nat) (s : Part) : Part :=
  { s.setLink l ((s.link l).renewed epoch) with
    alarm := { s.alarm with journal := s.alarm.journal.renewedBy l epoch } }

/-- The part as the assertions find it when they are dropped. -/
def Part.renewed (l : LinkId) (epoch : Nat) (s : Part) : Part := (s.reidentified l epoch).loseHeld l

theorem Part.newEpoch_eq (l : LinkId) (epoch : Nat) (s : Part) :
    s.newEpoch l epoch = ((s.renewed l epoch).dropAssertions l).settleRelays := by
  have hlost : s.renewed l epoch = if (s.reidentified l epoch).manager.heldBy l then
      (s.reidentified l epoch).loseSession l else s.reidentified l epoch := by
    unfold Part.renewed Part.loseHeld
    by_cases h : (s.reidentified l epoch).manager.holder = some l
    · rw [if_pos h, if_pos ((Manager.heldBy_iff ..).mpr h)]
    · rw [if_neg h, if_neg (by rw [Manager.not_heldBy h]; nofun)]
  rw [hlost]
  cases l <;> rfl

theorem Part.renewed_eq (l : LinkId) (epoch : Nat) (s : Part) : s.renewed l epoch = {
    s.setLink l ((s.link l).renewed epoch) with
      manager := s.manager.endedBy l
      alarm := { s.alarm with journal := (s.alarm.journal.renewedBy l epoch).appendAll (s.manager.lostBy l) } } := by
  rw [Part.renewed, Part.loseHeld_eq]
  cases l <;> rfl

theorem Part.renewed_link (l : LinkId) (epoch : Nat) (s : Part) :
    (s.renewed l epoch).link l = (s.link l).renewed epoch := by
  rw [Part.renewed_eq]
  cases l <;> rfl

theorem Part.renewed_link_other (l : LinkId) (epoch : Nat) (s : Part) :
    (s.renewed l epoch).link (otherLink l) = s.link (otherLink l) := by
  rw [Part.renewed_eq]
  cases l <;> rfl

theorem Part.renewed_state (l k : LinkId) (epoch : Nat) (s : Part) :
    ((s.renewed l epoch).link k).state = (s.link k).state := by
  rw [Part.renewed_eq]
  cases l <;> cases k <;> rfl

/-- A new epoch leaves these alone until the assertions follow. -/
theorem Part.renewed_frame (l : LinkId) (epoch : Nat) (s : Part) : (s.renewed l epoch).conditions = s.conditions ∧
    (s.renewed l epoch).env (.link l) = s.env (.link l) := by
  rw [Part.renewed_eq]
  cases l <;> exact ⟨rfl, rfl⟩

theorem Part.renewed_manager (l : LinkId) (epoch : Nat) (s : Part) :
    (s.renewed l epoch).manager = s.manager.endedBy l := by
  rw [Part.renewed_eq]

theorem Part.renewed_alarm (l : LinkId) (epoch : Nat) (s : Part) : (s.renewed l epoch).alarm =
    { s.alarm with journal := (s.alarm.journal.renewedBy l epoch).appendAll (s.manager.lostBy l) } := by
  rw [Part.renewed_eq]

theorem Part.renewed_reading (l : LinkId) (epoch : Nat) (s : Part) (p : PointId) (c : Condition) :
    (s.renewed l epoch).reading p c = s.reading p c := by
  refine Part.reading_congr ?_ (fun n _ => ?_) fun k _ => by rw [Part.renewed_state]
  · rw [Part.renewed_eq, Part.setLink_active]
  · rw [Part.renewed_eq, Part.setLink_lines]

theorem Manager.endedBy_mode (l : LinkId) (m : Manager) : (m.endedBy l).mode = m.mode := by
  unfold Manager.endedBy
  split
  · rfl
  · rfl

/-! ## The assertions dropped (R36, R43) -/

theorem eraseDups_of_nodup {α : Type} [BEq α] [LawfulBEq α] {ps : List α} (h : ps.Nodup) : ps.eraseDups = ps := by
  induction ps with
  | nil => rfl
  | cons p ps ih =>
    obtain ⟨hp, hps⟩ := List.nodup_cons.mp h
    have hkeep : ps.filter (fun q => !(q == p)) = ps := List.filter_eq_self.mpr fun q hq => by
      rw [Bool.not_eq_true', beq_eq_false_iff_ne]
      exact fun he => hp (he ▸ hq)
    rw [List.eraseDups_cons, hkeep, ih hps]

theorem allPoints_eraseDups : allPoints.eraseDups = allPoints := eraseDups_of_nodup (List.nodup_finRange 96)

/-- A point's source read with a link's assertion dropped. -/
theorem Part.reading_dropped (l : LinkId) (s : Part) (p : PointId) (c : Condition) :
    s.reading p (c.setBy l false) = (match s.active.points[p].source with
      | .line n => s.lines[n].abnormal
      | .msg k => if k = l then false else c.by (otherLink l)
      | .msgAny => c.by (otherLink l)
      | .silent k => decide ((s.link k).state = .silent)) := by
  unfold Part.reading
  cases s.active.points[p].source with
  | line n => rfl
  | msg k => cases k <;> cases l <;> rfl
  | msgAny =>
    cases l
    · exact Bool.false_or _
    · exact Bool.or_false _
  | silent k => rfl

theorem Part.begin_state (s : Part) (l k : LinkId) (f : Frame) : ((s.begin l f).link k).state = (s.link k).state := by
  cases l <;> cases k <;> rfl

theorem Part.begin_reading (s : Part) (l : LinkId) (f : Frame) (p : PointId) (c : Condition) :
    (s.begin l f).reading p c = s.reading p c :=
  Part.reading_congr (by rw [Part.begin_active]) (fun n _ => by rw [Part.begin_lines])
    fun k _ => by rw [Part.begin_state]

theorem Part.resolvedAs_link (s m : Part) (k : LinkId) : (s.resolvedAs m).link k = s.link k := by cases k <;> rfl

/-- Assertions dropped, the records are the points' own, and SHELF_FULL. -/
theorem Part.Asserted.recorded {v : Bool} {ps : List PointId} {m : Part} (h : Part.Asserted l v ps s m) :
    Alarm.Recorded s.alarm m.alarm := by
  rw [h.alarm]
  exact Alarm.foldl_deliver_recorded ..

/-! ## A new epoch, whole (R182) -/

theorem Part.newEpoch_link (l k : LinkId) (epoch : Nat) (s : Part) :
    (s.newEpoch l epoch).link k = (s.renewed l epoch).link k := by
  rw [Part.newEpoch_eq, Part.settleRelays_link, (Part.dropAssertions_asserted ..).frame, Part.resolvedAs_link]

theorem Part.newEpoch_manager (l : LinkId) (epoch : Nat) (s : Part) :
    (s.newEpoch l epoch).manager = s.manager.endedBy l := by
  rw [Part.newEpoch_eq, (Part.dropAssertions_asserted ..).frame]
  exact Part.renewed_manager ..

/-- What a new epoch may change, beside the conditions and the alarms. -/
theorem Part.newEpoch_frame (l : LinkId) (epoch : Nat) (s : Part) : s.newEpoch l epoch = { s with
    manager := (s.newEpoch l epoch).manager
    conditions := (s.newEpoch l epoch).conditions
    alarm := (s.newEpoch l epoch).alarm
    linkA := (s.newEpoch l epoch).linkA
    linkB := (s.newEpoch l epoch).linkB
    panel := { s.panel with relays := (s.newEpoch l epoch).panel.relays } } := by
  obtain ⟨c, a, h⟩ : ∃ c a, (s.renewed l epoch).dropAssertions l =
      { s.renewed l epoch with conditions := c, alarm := a } := ⟨_, _, (Part.dropAssertions_asserted ..).frame⟩
  rw [Part.newEpoch_eq, h, Part.renewed_eq]
  cases l <;> rfl

/-- The conditions and the alarms after a new epoch: every assertion of the link dropped, from the Journal with EPOCH and
the session's end. -/
theorem Part.newEpoch_asserted (l : LinkId) (epoch : Nat) (s : Part) :
    Part.Asserted l false allPoints (s.renewed l epoch) ((s.renewed l epoch).dropAssertions l) ∧
    (s.newEpoch l epoch).conditions = ((s.renewed l epoch).dropAssertions l).conditions ∧
    (s.newEpoch l epoch).alarm = ((s.renewed l epoch).dropAssertions l).alarm := by
  rw [Part.newEpoch_eq]
  exact ⟨Part.dropAssertions_asserted .., rfl, rfl⟩

theorem Part.newEpoch_helloData (l : LinkId) (epoch n : Nat) (s : Part) : (s.newEpoch l epoch).helloData l n =
    Config.identity ++ be 1 (linkCode l) ++ be 1 (s.link l).authority.code ++ be 1 s.manager.mode.code ++
      be 4 (seqBefore (s.newEpoch l epoch).alarm.journal.nextSeq) ++ be 2 n := by
  refine Part.helloData_of_eq ?_ ?_ n
  · rw [Part.newEpoch_link, Part.renewed_link]
    rfl
  · rw [Part.newEpoch_manager, Manager.endedBy_mode]

end

/-- Settles O51: the same epoch and another version only answer; a new epoch is `Part.newEpoch`, whose assertions are dropped
as `Part.Asserted` says. -/
theorem helloIdentifiesAndDropsTheOldSelf : Obligations.HelloIdentifiesAndDropsTheOldSelf := by
  unfold Obligations.HelloIdentifiesAndDropsTheOldSelf
  refine ⟨fun s l f h => ?_, fun s l f epoch h hv he hn => ?_⟩
  · refine ⟨fun hv he => ?_, fun hv => State.run_answered h helloBody (helloBody_version hv)⟩
    have hbegin : ((s.begin l f).link l).epoch = (s.link l).epoch := by rw [Part.begin_link]
    refine (State.run_answered h helloBody (helloBody_sameEpoch hv (he.trans hbegin.symm))).trans ?_
    rw [Part.helloData_of_eq (s := s.toPart) (by rw [Part.begin_link]) (by rw [Part.begin_manager]), hbegin, Part.begin_alarm]
    rfl
  · have hlink : (s.begin l f).link l =
        { s.link l with waiting := (s.link l).waiting.tail, executing := some f } := Part.begin_link ..
    have hdata := (s.begin l f).newEpoch_helloData l epoch (s.link l).epoch
    have hexec : exec (.hello l) s = s.becomes (((s.begin l f).newEpoch l epoch).conclude l f
        (okAnswer (((s.begin l f).newEpoch l epoch).helloData l (s.link l).epoch))) := by
      refine State.run_ready h helloBody ((helloBody_newEpoch hv he ?_).trans ?_)
      · rw [hlink]
        exact hn
      · rw [hlink]
    obtain ⟨hdropped, hconditions, halarm⟩ := (s.begin l f).newEpoch_asserted l epoch
    obtain ⟨hconditionsBefore, henvBefore⟩ := (s.begin l f).renewed_frame l epoch
    have hstart := (s.begin l f).renewed_alarm l epoch
    have hdelivered := hdropped.alarm
    obtain ⟨bs, hbs, hkinds⟩ := hdropped.recorded
    -- Every clause read off the dropped assertions, said of `s` itself.
    have hby := hdropped.by_eq
    have hother := hdropped.by_other
    have hchanged := hdropped.changed
    have hkept := hdropped.kept
    rw [allPoints_eraseDups] at hdelivered
    simp only [← hconditions, ← halarm, hconditionsBefore, henvBefore, hstart, Part.begin_conditions, Part.begin_env,
      Part.begin_alarm, Part.begin_manager, Part.renewed_reading, Part.begin_reading]
      at hdelivered hbs hby hother hchanged hkept
    refine ⟨(s.begin l f).newEpoch l epoch, bs, _, ?_, rfl, hbs.trans (Journal.appendAll_append ..).symm, hkinds,
      hdelivered, ?_, ?_, fun p => ⟨?_, hother p⟩, fun p hp => ?_, fun p hp => hkept p (.inr hp), ?_, ?_⟩
    · rw [hexec, hdata, hlink, Part.begin_manager]
    · rw [Part.newEpoch_link, Part.renewed_link]
      rfl
    · rw [Part.newEpoch_manager, Part.begin_manager]
      rfl
    · rw [hby p, if_pos (mem_allPoints p)]
    · rw [hchanged p (mem_allPoints p) (by rw [hp]; nofun)]
      exact Part.reading_dropped ..
    · rw [← Part.begin_panel s.toPart l f]
      exact Part.newEpoch_frame ..
    · rw [Part.newEpoch_link, Part.renewed_link_other, Part.begin_link_ne s.toPart f (otherLink_ne l)]

end Sys2Proof.Machine
end


section
/-! SUPPORT. The numbers, frames and journal records of the message catalogue as characters, and the CRC bit by bit (R168,
R174, R186, R190). -/

namespace Sys2Proof.Machine

/-! ## Numbers as characters (R186) -/

@[simp] theorem length_be (n x : Nat) : (be n x).length = n := by
  induction n with
  | zero => rfl
  | succ k ih => exact congrArg (· + 1) ih

theorem fromBe_cons (c : Byte) (cs : List Byte) : fromBe (c :: cs) = c.toNat * 256 ^ cs.length + fromBe cs := by
  have hfold (cs : List Byte) (n : Nat) : cs.foldl (fun n b => n * 256 + b.toNat) n = n * 256 ^ cs.length + fromBe cs := by
    induction cs generalizing n with
    | nil => simp [fromBe]
    | cons b bs ih =>
      have htail : fromBe (b :: bs) = b.toNat * 256 ^ bs.length + fromBe bs := by
        simpa [fromBe] using ih b.toNat
      rw [List.foldl_cons, ih, htail, List.length_cons]
      ring
  simpa [fromBe] using hfold cs c.toNat

/-- What does not fit in `n` characters is cut off at the top. -/
theorem fromBe_be (n x : Nat) : fromBe (be n x) = x % 256 ^ n := by
  induction n with
  | zero => simp [be, fromBe, Nat.mod_one]
  | succ k ih =>
    have hhead : (BitVec.ofNat 8 (x / 256 ^ k)).toNat = x / 256 ^ k % 256 := BitVec.toNat_ofNat ..
    rw [be, fromBe_cons, ih, length_be, hhead, Nat.mod_pow_succ]
    ring

/-- The number at the front of some characters is the field there. -/
theorem field_be_append (n x : Nat) (cs : List Byte) : field (be n x ++ cs) 0 n = x % 256 ^ n := by
  rw [← fromBe_be, field, List.drop_zero, List.take_left' (length_be n x)]

theorem field_be (n x : Nat) : field (be n x) 0 n = x % 256 ^ n := by
  simpa using field_be_append n x []

/-- A field behind the number at the front. -/
theorem field_be_append_of_le {n i : Nat} (h : n ≤ i) (x : Nat) (cs : List Byte) (size : Nat) :
    field (be n x ++ cs) i size = field cs (i - n) size := by
  have hfront : (be n x).drop i = [] := List.drop_eq_nil_of_le (by rwa [length_be])
  rw [field, List.drop_append, hfront, length_be, List.nil_append, field]

theorem be_one (x : Nat) : be 1 x = [BitVec.ofNat 8 x] := by simp [be]

theorem be_one_toNat (c : Byte) : be 1 c.toNat = [c] := by rw [be_one, BitVec.ofNat_toNat, BitVec.setWidth_eq]

/-! ## The value codes fit in a character (11.3, 11.6) -/

theorem Status.code_lt (x : Status) : x.code < 256 := by cases x <;> decide

theorem RecordKind.code_lt (k : RecordKind) : k.code < 256 := by cases k <;> decide

/-- The basis stands in the top bit of the origin's character. -/
theorem Origin.code_lt (o : Origin) : o.code < 128 := by
  cases o with
  | link l => cases l <;> decide
  | _ => decide

theorem PointState.code_lt (t : PointState) : t.code < 256 := by cases t <;> decide

theorem Cause.code_lt (c : Cause) : c.code < 256 := by cases c <;> decide

theorem Flags.code_eq (f : Flags) :
    f.code = (if f.repeated then 1 else 0) + (if f.extended then 2 else 0) + (if f.dropped then 4 else 0) := rfl

theorem Flags.code_lt (f : Flags) : f.code < 256 := by
  rw [Flags.code_eq]
  split_ifs <;> decide

theorem replyKind_toNat {k : Byte} (h : k.toNat < 128) : (replyKind k).toNat = k.toNat + 128 := by
  have hor : 2 ^ 7 * 1 + k.toNat = 2 ^ 7 * 1 ||| k.toNat := Nat.two_pow_add_eq_or_of_lt h 1
  calc (replyKind k).toNat = k.toNat ||| 128 := BitVec.toNat_or ..
    _ = 128 ||| k.toNat := Nat.or_comm ..
    _ = 128 + k.toNat := hor.symm
    _ = k.toNat + 128 := Nat.add_comm ..

/-- Absence is sent as 255 (R190), which fits as well. -/
theorem elim_code_lt {α : Type} {code : α → Nat} (h : ∀ x, code x < 256) (o : Option α) : o.elim 255 code < 256 := by
  cases o with
  | none => exact Nat.lt_succ_self 255
  | some x => exact h x

/-! ## A journal record (R190) -/

theorem Record.chars_eq (r : Record) : r.chars = be 4 r.seq ++ (be 6 r.time ++ (be 1 r.body.kind.code ++
    (be 1 ((if r.basis = .calendar then 128 else 0) + r.body.origin.code) ++
    (be 1 (r.body.point.elim 255 Fin.val) ++ (be 1 (r.body.states.elim 255 fun x => x.1.code) ++
    (be 1 (r.body.states.elim 255 fun x => x.2.code) ++ (be 1 (r.body.cause.elim 255 Cause.code) ++
    (be 2 (r.body.occurrence.getD 0) ++ be 2 (r.body.detail.getD 0))))))))) := by
  obtain ⟨_, _, basis, _, _, point, states, cause, _, _⟩ := r
  simp only [Record.chars, List.append_assoc]
  cases basis <;> cases point <;> cases states <;> cases cause <;> rfl

theorem Record.length_chars (r : Record) : r.chars.length = 20 := by
  simp [Record.chars_eq]

/-- The numbers, each cut off at the size of its field. -/
theorem Record.field_numbers (r : Record) :
    field r.chars 0 4 = r.seq % 2 ^ 32 ∧ field r.chars 4 6 = r.time % 2 ^ 48 ∧
    field r.chars 16 2 = r.body.occurrence.getD 0 % 65536 ∧ field r.chars 18 2 = r.body.detail.getD 0 % 65536 := by
  rw [Record.chars_eq]
  simp [field_be_append, field_be_append_of_le, field_be]

/-- The fields of one character, which every code and every point number fits. -/
theorem Record.field_codes (r : Record) :
    field r.chars 10 1 = r.body.kind.code ∧
    field r.chars 11 1 = (if r.basis = .calendar then 128 else 0) + r.body.origin.code ∧
    field r.chars 12 1 = r.body.point.elim 255 Fin.val ∧
    field r.chars 13 1 = r.body.states.elim 255 (fun x => x.1.code) ∧
    field r.chars 14 1 = r.body.states.elim 255 (fun x => x.2.code) ∧
    field r.chars 15 1 = r.body.cause.elim 255 Cause.code := by
  have horigin : (if r.basis = .calendar then 128 else 0) + r.body.origin.code < 256 := by
    have := r.body.origin.code_lt
    split_ifs <;> omega
  rw [Record.chars_eq]
  simp only [field_be_append_of_le, Nat.reduceLeDiff, Nat.reduceSub, Nat.le_refl, field_be_append, Nat.pow_one]
  exact ⟨Nat.mod_eq_of_lt r.body.kind.code_lt, Nat.mod_eq_of_lt horigin,
    Nat.mod_eq_of_lt (elim_code_lt (fun p => p.isLt.trans (by decide)) _),
    Nat.mod_eq_of_lt (elim_code_lt (fun x => x.1.code_lt) _), Nat.mod_eq_of_lt (elim_code_lt (fun x => x.2.code_lt) _),
    Nat.mod_eq_of_lt (elim_code_lt Cause.code_lt _)⟩

/-- A number that may be absent, cut off at two characters. -/
theorem getD_zero_mod (o : Option Nat) :
    (∀ n, o = some n → n ≤ 65535 → o.getD 0 % 65536 = n) ∧ (o = none → o.getD 0 % 65536 = 0) := by
  refine ⟨?_, ?_⟩
  · rintro n rfl hn
    exact Nat.mod_eq_of_lt (Nat.lt_succ_of_le hn)
  · rintro rfl
    rfl

/-! ## Frames (R165, R174) -/

/-- What the CRC of a frame from the part covers: LEN, TAG, KIND and the body. -/
def frameCovered (tag kind : Byte) (body : List Byte) : List Byte :=
  be 1 (body.length + 2) ++ (be 1 tag.toNat ++ (be 1 kind.toNat ++ body))

theorem frameChars_eq (tag kind : Byte) (body : List Byte) : frameChars tag kind body =
    [0x5A] ++ frameCovered tag kind body ++ be 2 (crcOf (frameCovered tag kind body)).toNat := by
  have hcovered : frameCovered tag kind body = BitVec.ofNat 8 (body.length + 2) :: tag :: kind :: body := by
    rw [frameCovered, be_one, be_one_toNat, be_one_toNat]
    rfl
  rw [hcovered]
  rfl

/-- What the CRC of a reply covers, field by field. -/
def Reply.covered (r : Reply) : List Byte :=
  be 1 (r.answer.data.length + 4) ++ (be 1 r.tag.toNat ++ (be 1 (replyKind r.kind).toNat ++
    (be 1 r.answer.status.code ++ (be 1 r.answer.flags.code ++ r.answer.data))))

theorem Reply.chars_eq (r : Reply) : r.chars = [0x5A] ++ r.covered ++ be 2 (crcOf r.covered).toNat := by
  have hcovered : frameCovered r.tag (replyKind r.kind)
      (be 1 r.answer.status.code ++ be 1 r.answer.flags.code ++ r.answer.data) = r.covered := by
    have hlen : (be 1 r.answer.status.code ++ be 1 r.answer.flags.code ++ r.answer.data).length + 2 =
        r.answer.data.length + 4 := by
      simp only [List.length_append, length_be]
      omega
    rw [frameCovered, hlen, List.append_assoc]
    rfl
  rw [← hcovered]
  exact frameChars_eq ..

theorem Reply.length_covered (r : Reply) : r.covered.length = r.answer.data.length + 5 := by
  simp only [Reply.covered, List.length_append, length_be]
  omega

theorem Reply.drop_covered (r : Reply) : r.covered.drop 5 = r.answer.data := by
  simp [Reply.covered, be_one]

theorem Reply.field_covered {r : Reply} (hdata : r.answer.data.length ≤ 238) (hkind : r.kind.toNat < 128) :
    field r.covered 0 1 = r.answer.data.length + 4 ∧ field r.covered 1 1 = r.tag.toNat ∧
    field r.covered 2 1 = r.kind.toNat + 128 ∧ field r.covered 3 1 = r.answer.status.code ∧
    field r.covered 4 1 = r.answer.flags.code := by
  rw [Reply.covered, replyKind_toNat hkind]
  simp only [field_be_append_of_le, Nat.reduceLeDiff, Nat.reduceSub, Nat.le_refl, field_be_append, Nat.pow_one]
  exact ⟨Nat.mod_eq_of_lt (by omega), Nat.mod_eq_of_lt r.tag.isLt, Nat.mod_eq_of_lt (by omega),
    Nat.mod_eq_of_lt r.answer.status.code_lt, Nat.mod_eq_of_lt r.answer.flags.code_lt⟩

theorem reportChars_eq (r : Record) (credits : Nat) :
    let covered : List Byte := be 1 23 ++ be 1 0 ++ be 1 0x60 ++ r.chars ++ be 1 credits
    reportChars r credits = [0x5A] ++ covered ++ be 2 (crcOf covered).toNat := by
  intro covered
  have hcovered : frameCovered 0 0x60 (r.chars ++ be 1 credits) = covered := by
    rw [frameCovered, List.length_append, Record.length_chars, length_be]
    simp [covered]
  rw [← hcovered]
  exact frameChars_eq ..

/-! ## The CRC (R168) -/

theorem crcOf_append_singleton (cs : List Byte) (c : Byte) : crcOf (cs ++ [c]) = crcByte (crcOf cs) c :=
  List.foldl_append ..

theorem crcByte_eq (x : BitVec 16) (c : Byte) : crcByte x c = [7, 6, 5, 4, 3, 2, 1, 0].foldl
    (fun (x : BitVec 16) (i : Nat) => if x.getLsbD 15 = c.getLsbD i then x <<< 1 else (x <<< 1) ^^^ 0x1021#16) x := rfl

/-- Settles O15: each layout is a row of numbers, and a field is found behind the numbers before it. -/
theorem recordAndReplyLayouts : Obligations.RecordAndReplyLayouts := by
  unfold Obligations.RecordAndReplyLayouts
  refine ⟨fun r => ?_, fun r hdata hkind => ?_, reportChars_eq, rfl, fun cs c => ?_⟩
  · obtain ⟨hseq, htime, hoccurrence, hdetail⟩ := r.field_numbers
    obtain ⟨hkind, horigin, hpoint, hfrom, hto, hcause⟩ := r.field_codes
    obtain ⟨hoccurrenceSent, hoccurrenceAbsent⟩ := getD_zero_mod r.body.occurrence
    obtain ⟨hdetailSent, hdetailAbsent⟩ := getD_zero_mod r.body.detail
    rw [hseq, htime, hoccurrence, hdetail]
    refine ⟨r.length_chars, Nat.mod_eq_of_lt, Nat.mod_eq_of_lt, hkind, horigin, hpoint.trans ?_, hfrom.trans ?_,
      hto.trans ?_, hcause.trans ?_, hoccurrenceSent, hoccurrenceAbsent, hdetailSent, hdetailAbsent⟩
    · cases r.body.point <;> rfl
    · cases r.body.states <;> rfl
    · cases r.body.states <;> rfl
    · cases r.body.cause <;> rfl
  · obtain ⟨hlen, htag, hreplyKind, hstatus, hflags⟩ := Reply.field_covered hdata hkind
    exact ⟨r.covered, r.chars_eq, r.length_covered, hlen, htag, hreplyKind, hstatus, hflags.trans r.answer.flags.code_eq,
      r.drop_covered⟩
  · rw [crcOf_append_singleton, crcByte_eq]

end Sys2Proof.Machine
end


section
/-! SUPPORT. The dispatch of a step and of a command: the queue's front, the commands that complete, the timers that name a
point the part does not have (logs 1, 26). -/

namespace Sys2Proof.Machine

/-! ## The queue's front (log 1) -/

theorem step_of_pending {s : State} {c : Instr} {rest : List Instr} (h : s.pending = c :: rest) :
    step s = exec c { s with pending := rest } := by
  unfold step
  rw [h]

/-- Settles O1: the command put at the front is the one the step takes off again. -/
theorem stepRunsFrontCommand : Obligations.StepRunsFrontCommand := by
  unfold Obligations.StepRunsFrontCommand
  intro c s
  exact step_of_pending (s := s.withCommand c) rfl

/-! ## Commands that complete -/

/-- An operation on the part completes, and the queue is left alone. -/
theorem State.run_completes (f : Part → Part) (s : State) : ∃ t, s.run f = s.becomes t := ⟨f s.toPart, rfl⟩

/-- A gap timer completes whether it waits for a character of its link (log 16) or not. -/
theorem execIntraFrameGapExpiry_completes (l : LinkId) (s : State) : ∃ t, execIntraFrameGapExpiry l s = s.becomes t := by
  unfold execIntraFrameGapExpiry
  split
  · exact ⟨s.toPart, rfl⟩
  · exact State.run_completes _ s

/-! ## The timers of a point (R16, R72, log 26) -/

section
variable {n : Nat} (s : State)

theorem execReminderExpiry_val (p : PointId) : execReminderExpiry p.val s = s.run (·.reminderExpired p) := by
  unfold execReminderExpiry
  rw [point?_val]

theorem execReminderExpiry_above (h : 95 < n) : execReminderExpiry n s = .fault .noSuchPoint := by
  unfold execReminderExpiry
  rw [point?_above h]

theorem execChatterWindowExpiry_val (p : PointId) : execChatterWindowExpiry p.val s = s.run (·.chatterExpired p) := by
  unfold execChatterWindowExpiry
  rw [point?_val]

theorem execChatterWindowExpiry_above (h : 95 < n) : execChatterWindowExpiry n s = .fault .noSuchPoint := by
  unfold execChatterWindowExpiry
  rw [point?_above h]

end

/-! ## Every command, by its operands -/

/-- A well-formed command completes: a point's timer by its point, the gap timer with or without a character waiting, and
every other row is one operation on the part. -/
theorem exec_completes {c : Instr} (s : State) (h : c.wellFormed = true) : ∃ t, exec c s = s.becomes t := by
  cases c with
  | reminderExpiry n =>
    have hn : n < 96 := of_decide_eq_true h
    exact ⟨_, execReminderExpiry_val s ⟨n, hn⟩⟩
  | chatterWindowExpiry n =>
    have hn : n < 96 := of_decide_eq_true h
    exact ⟨_, execChatterWindowExpiry_val s ⟨n, hn⟩⟩
  | receiveCharacter l c => exact State.run_completes (fun p => (p.receive l c).serve) s
  | intraFrameGapExpiry l => exact execIntraFrameGapExpiry_completes l s
  | _ => exact State.run_completes _ s

/-- An ill-formed command is a timer of a point above 95, and stops. -/
theorem exec_illFormed {c : Instr} (s : State) (h : c.wellFormed = false) : exec c s = .fault .noSuchPoint := by
  cases c with
  | reminderExpiry n =>
    have hn : ¬n < 96 := of_decide_eq_false h
    exact execReminderExpiry_above s (Nat.not_lt.mp hn)
  | chatterWindowExpiry n =>
    have hn : ¬n < 96 := of_decide_eq_false h
    exact execChatterWindowExpiry_above s (Nat.not_lt.mp hn)
  | _ => cases h

/-- Settles O3: a command by whether its operands lie in their ranges. -/
theorem commandsCompleteExactlyWhenWellFormed : Obligations.CommandsCompleteExactlyWhenWellFormed := by
  unfold Obligations.CommandsCompleteExactlyWhenWellFormed
  exact fun c s => ⟨exec_completes s, exec_illFormed s⟩

end Sys2Proof.Machine
end
